-- ==== Sys2Proof/Word.lean ====
section
/-! DEFINITION. The word types of the engine: 64-bit state words, operands and results (00_scope.md R13), and the
66-bit request and response words of the interface (30_encoding.md R42, R43). Arithmetic on a `BitVec` is modulo 2^64
(R15), its shifts are logical (R17), and bit 0 is the least significant (R16): the spec's own conventions. -/

namespace Sys2Proof

/-- A 64-bit unsigned value: a state word, an operand, a result (R13). -/
abbrev Word := BitVec 64

/-- A request word `REQ`: op in bits 65:64, operand in bits 63:0 (R42). -/
abbrev ReqWord := BitVec 66

/-- A response word `RSP`: status in bits 65:64, result in bits 63:0 (R43). -/
abbrev RspWord := BitVec 66

end Sys2Proof
end

