-- ==== Sys2Proof/Syntax.lean ====
section
/-! DEFINITION. The syntax whole: one constructor of `Instr` per row of spec/opcode_table.json (30_encoding.md R44), and
the lines of the assembler language (R51). -/

namespace Sys2Proof

/-- A request as the decoder reads it. Every request word has a 64-bit operand field (R42); NOP, NEXT and the reserved
op ignore it (R45), and their constructors keep it so that decoding drops no bit (DESIGN CHOICE, safe, log entry 10). -/
inductive Instr where
  /-- op 00: do nothing (43_next.md R75). -/
  | nop (operand : Word)
  /-- op 01: load a seed and initialise the whole state (40_seed.md R54). -/
  | seed (s : Word)
  /-- op 10: return the next tempered word (43_next.md R71). -/
  | next (operand : Word)
  /-- op 11: the reserved encoding, an illegal request (43_next.md R76). -/
  | reserved (operand : Word)
  deriving DecidableEq, Repr

/-- One line of the assembler language (R51). An immediate is kept as the integer that was written, so that "a negative
or wider value is an assembly error, never wrapped" can be said of it. -/
inductive AsmLine where
  /-- `NOP` -/
  | nop
  /-- `SEED <imm>` -/
  | seed (imm : Int)
  /-- `NEXT` -/
  | next
  /-- `.req <op>, <operand>` -/
  | req (op : BitVec 2) (operand : Int)
  deriving DecidableEq, Repr

end Sys2Proof
end

