-- ==== Sys2Proof/WellFormed.lean ====
section
/-! DEFINITION. Well-formedness of syntax. A request needs no check: every one of the 2^66 request words is a request
(30_encoding.md R50) and every 64-bit operand is accepted (R45, 40_seed.md R54). An assembler line needs one: its
immediate lies in 0..2^64-1 (R51). -/

namespace Sys2Proof

/-- Every term of `Instr` is well formed, one arm per constructor: the widths of the fields are all the encoding asks
(R45, R50). -/
def Instr.wf : Instr → Bool
  | .nop _ => true
  | .seed _ => true
  | .next _ => true
  | .reserved _ => true

/-- `<imm>` is an unsigned integer in 0..2^64-1 (R51). -/
def immInRange (imm : Int) : Bool :=
  decide (0 ≤ imm) && decide (imm < 2 ^ 64)

/-- An assembler line is well formed when its immediate, if it has one, is in range (R51). -/
def AsmLine.wf : AsmLine → Bool
  | .nop => true
  | .seed imm => immInRange imm
  | .next => true
  | .req _ operand => immInRange operand

end Sys2Proof
end

