-- ==== Sys2Proof/Decode.lean ====
section
/-! DEFINITION. Decoding and encoding of request words (30_encoding.md R42 to R50). Decoding is total on request words;
bits that are no request word (R49: every request is 66 bits) are rejected by name. -/

namespace Sys2Proof

/-- `op` = bits 65:64 (R42). -/
def opField (w : ReqWord) : BitVec 2 :=
  w.extractLsb' 64 2

/-- `operand` = bits 63:0 (R42), taken whole with no extension, scaling or shift (R45). -/
def operandField (w : ReqWord) : Word :=
  w.extractLsb' 0 64

/-- The dispatch of R50: by `op` alone. The last arm is `op = 11`, the one value left. -/
def decode (w : ReqWord) : Instr :=
  if opField w = 0b00#2 then .nop (operandField w)
  else if opField w = 0b01#2 then .seed (operandField w)
  else if opField w = 0b10#2 then .next (operandField w)
  else .reserved (operandField w)

/-- Why some bits are no request. -/
inductive DecodeError where
  /-- A value that needs more than 66 bits: no request has that length (R49). Raised by `readRequest`. -/
  | widerThanRequest
  deriving DecidableEq, Repr

/-- The request word a number stands for, bit 0 the least significant (00_scope.md R16); a number that needs more than
66 bits is refused by name, never truncated (R49; log entry 14). -/
def readRequest (value : Nat) : Except DecodeError ReqWord :=
  if value < 2 ^ 66 then .ok (BitVec.ofNat 66 value) else .error .widerThanRequest

/-- Decoding of any number of bits: R50 on a request word, a named refusal elsewhere. -/
def decodeBits (value : Nat) : Except DecodeError Instr :=
  match readRequest value with
  | .ok w => .ok (decode w)
  | .error e => .error e

/-- The words of the opcode map, written from the table of R44 and the format of R42. -/
def encode : Instr → ReqWord
  | .nop operand => 0b00#2 ++ operand
  | .seed s => 0b01#2 ++ s
  | .next operand => 0b10#2 ++ operand
  | .reserved operand => 0b11#2 ++ operand

/-- The instruction the decoder reads from a table row's word `w` of `nbits` bits (the row's 66 bits in whole bytes);
bits at and above `nbits` are 0. None where the bits are no request word. -/
def decodeTableWord (nbits w : Nat) : Option Instr :=
  (decodeBits (w % 2 ^ nbits)).toOption

end Sys2Proof
end

