-- ==== Sys2Proof/Config.lean ====
section
/-! DEFINITION. What is fixed for the machine (the array's size), the configuration parameters the spec names, and the
free values: what the spec leaves unspecified, as constants with no body. -/

namespace Sys2Proof.Config

/-- The number of words of the state array: N = 312 (00_scope.md R5). -/
abbrev N : Nat := 312

/-- The twist's middle offset: M = 156 (R6). -/
abbrev M : Nat := 156

/-- The two twist readings (R12): `snapshot` is the source's rule (41_twist.md R59), `sequential` the reference
generator's in-place order (R60). Which one this hardware takes is `Machine.twistMode`. -/
inductive TwistMode where
  | snapshot
  | sequential
  deriving DecidableEq, Repr

/-- The byte order of a host that moves a 64-bit value over a narrower bus (R14 HOST_BYTE_ORDER, 20_memory.md R33). -/
inductive ByteOrder where
  | littleEndian
  | bigEndian
  deriving DecidableEq, Repr

/-- The two words of the interface, which a platform may map into a bus address space (20_memory.md R31). -/
inductive InterfaceWord where
  /-- The request word (30_encoding.md R42). -/
  | request
  /-- The response word (R43). -/
  | response
  deriving DecidableEq, Repr

/-- One register of a platform's register map: bits `lowBit + width - 1` down to `lowBit` of an interface word, at
`offset` from BASE_ADDRESS. The spec fixes no layout (R31, D12 OPEN); this shape is a DESIGN CHOICE, log entry 18. -/
structure MappedRegister where
  offset : Nat
  word : InterfaceWord
  lowBit : Nat
  width : Nat
  deriving DecidableEq, Repr

/-- The integration parameters R14 leaves open: "each a named argument of any model that places the block in a system
(none is read by any rule of this spec)". `Machine.Platform.reset` takes them as its argument and reads only
`instanceCount`; see log entries 11, 12 and 18. -/
structure Integration where
  /-- INSTANCE_COUNT: how many independent engines the platform has (60_exceptions.md R91). -/
  instanceCount : Nat
  /-- BASE_ADDRESS of a bus mapping, if the platform makes one (20_memory.md R31). -/
  baseAddress : Nat
  /-- The register map of that mapping (R14 "any register map", R31, D12): empty where the platform makes none. -/
  registerMap : List MappedRegister
  /-- HOST_BYTE_ORDER (R33). -/
  hostByteOrder : ByteOrder
  /-- LATENCY_SEED in cycles (70_reset_and_hazards.md R102). -/
  latencySeed : Nat
  /-- LATENCY_NEXT in cycles (R102). -/
  latencyNext : Nat
  deriving DecidableEq, Repr

/-- FREE VALUE (10_state.md R28, 93 U1, D8): word `i` of the array after the reset numbered `taken` of the engine
numbered `stream`. "every `words[i]` holds an unspecified value, which a model treats as an arbitrary value": it has
no body, so no proof can see what it is. DESIGN CHOICE, log entry 1. -/
opaque freeResetWord (stream taken i : Nat) : Word

end Sys2Proof.Config
end

