-- ==== Sys2Proof/Machine/State.lean ====
section
/-! DEFINITION. The state of one engine as plain data: the spec's three elements (10_state.md: `words`, `index`,
`seeded`, "Nothing else persists between requests"), and the model's own record of what stands at the interface:
the host's coming moves, what the engine has answered, and which free value the unspecified reset words are. -/

namespace Sys2Proof.Machine

/-- The state array: exactly N = 312 words, before the first SEED too (R20). -/
abbrev WordArray := Vector Word Config.N

/-- The outcome of a request, the `status` field of its response (30_encoding.md R47). The code 11 is "never produced"
and has no constructor. -/
inductive Status where
  /-- 00: the request took effect. -/
  | ok
  /-- 01: NEXT while Unseeded; no state change. -/
  | errUnseeded
  /-- 10: reserved op; no state change. -/
  | errIllegalOp
  deriving DecidableEq, Repr

/-- A response before its packing into 66 bits (R43). -/
structure Response where
  status : Status
  result : Word
  deriving DecidableEq, Repr

/-- What the host does at the interface (70_reset_and_hazards.md R106: "A model gives the host no move beyond this
table"). -/
inductive HostInput where
  /-- A request word, performed whole and answered before the next input (20_memory.md R37). -/
  | request (w : ReqWord)
  /-- The reset input, between requests (R94). -/
  | reset
  /-- The reset input while the request `w` is outstanding: it abandons `w` (R95). -/
  | resetDuring (w : ReqWord)
  deriving DecidableEq, Repr

/-- What the model records in its history (60_exceptions.md R86, 70_reset_and_hazards.md R105; log entry 5). -/
inductive Event where
  /-- The response to one accepted request. -/
  | answered (r : Response)
  /-- The engine was reset: a new run begins (R105). -/
  | reset
  deriving DecidableEq, Repr

/-- The model's own place in the stream of free reset words (log entry 1): which engine of a platform this is, and how
many resets it has had since power-on. No rule of the spec reads it. -/
structure FreeDraw where
  stream : Nat
  taken : Nat
  deriving DecidableEq, Repr

/-- The state of one engine. -/
structure State where
  /-- R20: the state array. -/
  words : WordArray
  /-- R21: the cursor, a 9-bit register (D17). -/
  index : BitVec 9
  /-- R22: the seeded flag, one bit; `false` is Unseeded. -/
  seeded : Bool
  /-- The model's own: the host's coming moves in the order the block accepts them, the "program" of R26 (log 3). -/
  inputs : List HostInput
  /-- The model's own: the history of responses and resets, oldest first (log 5). -/
  events : List Event
  /-- The model's own: where the unspecified reset words are drawn from (log 1). -/
  freeDraw : FreeDraw
  deriving DecidableEq, Repr

/-- What stops the machine. -/
inductive Fault where
  /-- NEXT in Seeded with `index` in 313..511: "the values 313..511 are never written by any rule and are unreachable"
  (R21), and 93 U6 says of them "if ever met, `stuck`". Raised by NEXT alone. Safe: no run from reset meets it (log 2). -/
  | cursorOutOfRange
  deriving DecidableEq, Repr

/-- Why the machine has no meaning for an instruction. -/
inductive Refusal where
  /-- An instruction with no meaning yet, by its table mnemonic. No arm of `exec` raises it. Safe: a stop. -/
  | notModelled (mnemonic : String)
  deriving DecidableEq, Repr

/-- The unspecified words after the reset numbered `taken` of the engine `stream`: free values (R28). -/
@[irreducible] def resetWords (d : FreeDraw) : WordArray :=
  ⟨((List.range Config.N).map (Config.freeResetWord d.stream d.taken)).toArray, by simp⟩

/-- The engine right after power-on (R94: "Power-on is a reset"), its unspecified words drawn at `d`: Unseeded, cursor
at N, nothing asked and nothing answered yet (R28; the last two: log 16). -/
def State.powerOn (d : FreeDraw) : State where
  words := resetWords d
  index := 312#9
  seeded := false
  inputs := []
  events := []
  freeDraw := d

/-- The machine right after reset (R28, R94). -/
def State.reset : State :=
  State.powerOn { stream := 0, taken := 0 }

end Sys2Proof.Machine
end

