-- ==== Sys2Proof/Machine/Flags.lean ====
section
/-! DEFINITION. The status of a response. The block has no flags or condition codes that persist (10_state.md R27): the
one outcome a request reports is the `status` field of its own response (30_encoding.md R43, R47). -/

namespace Sys2Proof.Machine

/-- The two errors the block reports (60_exceptions.md R79). -/
inductive Err where
  /-- ERR_UNSEEDED (R81). -/
  | unseeded
  /-- ERR_ILLEGAL_OP (R82). -/
  | illegalOp
  deriving DecidableEq, Repr

/-- The status that reports an error (R81, R82). -/
def Err.status : Err → Status
  | .unseeded => .errUnseeded
  | .illegalOp => .errIllegalOp

/-- The status codes of R47. -/
def Status.code : Status → BitVec 2
  | .ok => 0b00#2
  | .errUnseeded => 0b01#2
  | .errIllegalOp => 0b10#2

/-- The response word: status in bits 65:64, result in bits 63:0 (R43). -/
def Response.encode (r : Response) : RspWord :=
  r.status.code ++ r.result

/-- The host's reading of a response word; a host that receives the status 11 must refuse it (93 U7; log 17). -/
def decodeResponse (w : RspWord) : Option Response :=
  if w.extractLsb' 64 2 = 0b00#2 then some ⟨.ok, w.extractLsb' 0 64⟩
  else if w.extractLsb' 64 2 = 0b01#2 then some ⟨.errUnseeded, w.extractLsb' 0 64⟩
  else if w.extractLsb' 64 2 = 0b10#2 then some ⟨.errIllegalOp, w.extractLsb' 0 64⟩
  else none

end Sys2Proof.Machine
end

