-- ==== Sys2Proof/Machine/Operands.lean ====
section
/-! DEFINITION. The operand forms: how a rule names a word of the state array (00_scope.md R18). No request names one
(10_state.md R20); the twist reads `words[i]`, `words[(i+1) mod N]` and `words[(i+M) mod N]` (41_twist.md R59), and NEXT
reads `words[index]` (43_next.md R71). -/

namespace Sys2Proof.Machine

/-- `words[(i + k) mod N]`: integer arithmetic on indices, not 64-bit arithmetic (R18). -/
def wordAfter (ws : WordArray) (i k : Nat) : Word :=
  ws[(i + k) % Config.N]'(Nat.mod_lt _ (by decide))

/-- `words[index]`, where the cursor names a word (R18: 0 ≤ i < N). -/
def wordAtCursor (ws : WordArray) (index : BitVec 9) : Option Word :=
  ws[index.toNat]?

end Sys2Proof.Machine
end

