-- ==== Sys2Proof/Machine/Ops.lean ====
section
/-! DEFINITION. The shared operations: writing the elements of the state (00_scope.md R18), answering a request (R43),
raising an error (60_exceptions.md R80), the reset input (R94, R95), and accepting the host's next move (R37). Raising an
error is the block's whole "exception entry": it saves nothing, changes no mode and transfers control nowhere (R85), and
there is no return from it (R86), so no operation stands beside it. -/

namespace Sys2Proof.Machine

/-- What a step or a meaning answers. -/
abbrev Outcome := Host.Outcome State Fault Refusal

/-- `words <- ws` (R18). -/
def State.setWords (s : State) (ws : WordArray) : State :=
  { s with words := ws }

/-- `index <- v` (R18). -/
def State.setIndex (s : State) (v : BitVec 9) : State :=
  { s with index := v }

/-- `seeded <- v` (R18). -/
def State.setSeeded (s : State) (v : Bool) : State :=
  { s with seeded := v }

/-- The model's history gains one event (R86, R105). -/
def State.record (s : State) (e : Event) : State :=
  { s with events := s.events ++ [e] }

/-- The host's moves that are left, once the first has been taken (R37). -/
def State.setInputs (s : State) (rest : List HostInput) : State :=
  { s with inputs := rest }

/-- `respond(status, result)`: the request is answered with exactly one response (R43). -/
def respond (status : Status) (result : Word) (s : State) : Outcome :=
  .next (s.record (.answered ⟨status, result⟩))

/-- `raise E`: no change to `words`, `index` or `seeded`, and `respond(E, 0)` (R80). -/
def raiseError (e : Err) (s : State) : Outcome :=
  respond e.status 0#64 s

/-- The next draw of free reset words (log 1). -/
def FreeDraw.advance (d : FreeDraw) : FreeDraw :=
  { d with taken := d.taken + 1 }

/-- The reset input: Unseeded, cursor at N, every word unspecified (R28, R94): the free words of a new draw (log 1).
It is not a request and gets no response; the history marks where a new run begins (R105). -/
def applyReset (s : State) : State where
  words := resetWords s.freeDraw.advance
  index := 312#9
  seeded := false
  inputs := s.inputs
  events := s.events ++ [.reset]
  freeDraw := s.freeDraw.advance

/-- Reset while the request `w` is outstanding: `w` gets no response and whatever part of it had taken effect is lost,
since reset rewrites all of the engine's state (R95; log 6). -/
def abandonByReset (_w : ReqWord) (s : State) : State :=
  applyReset s

end Sys2Proof.Machine
end

