-- ==== Sys2Proof/Machine/Constants.lean ====
section
/-! DEFINITION. The engine's constants (00_scope.md R7 to R12). They are fixed: no request, mode or parameter changes
one (42_temper.md R70). They stand in this folder so that a repair could mend one. -/

namespace Sys2Proof.Machine

/-- TWIST_MODE of this hardware: SNAPSHOT (R12, 90_conflicts.md C1; log entry 7). -/
def twistMode : Config.TwistMode := .snapshot

/-- MATRIX_A (R7). -/
def matrixA : Word := 0xB5026F5AA96619E9#64

/-- UPPER_MASK: bits 63..31 (R8; the literal wins over the prose "top bit", 90_conflicts.md C2). -/
def upperMask : Word := 0xFFFFFFFF80000000#64

/-- LOWER_MASK: bits 30..0 (R9). -/
def lowerMask : Word := 0x000000007FFFFFFF#64

/-- SEED_MULT, written in decimal as the source does (R10). -/
def seedMult : Word := 6364136223846793005#64

/-- SEED_SHIFT (R10). -/
def seedShift : Nat := 62

/-- TMASK1 (R11). -/
def temperMask1 : Word := 0x5555555555555555#64

/-- TMASK2 (R11). -/
def temperMask2 : Word := 0x71D67FFFEDA60000#64

/-- TMASK3 (R11). -/
def temperMask3 : Word := 0xFFF7EEE000000000#64

/-- TSHIFT1 (R11). -/
def temperShift1 : Nat := 29

/-- TSHIFT2 (R11). -/
def temperShift2 : Nat := 17

/-- TSHIFT3 (R11). -/
def temperShift3 : Nat := 37

/-- TSHIFT4, the final right shift (R11). -/
def temperShift4 : Nat := 43

end Sys2Proof.Machine
end

