-- ==== Sys2Proof/Machine/Temper.lean ====
section
/-! DEFINITION. The tempering pipeline (42_temper.md R65 to R70): one combinational function of a word (R66); it reads and
writes no state (R67). The operator, the directions and the pairing are the spec's decision D6 (log entry 8). -/

namespace Sys2Proof.Machine

/-- Stage 1: `y ^ ((y >> 29) & TMASK1)` (R65). -/
def temperStage1 (y : Word) : Word :=
  y ^^^ ((y >>> temperShift1) &&& temperMask1)

/-- Stage 2: `y ^ ((y << 17) & TMASK2)` (R65). -/
def temperStage2 (y : Word) : Word :=
  y ^^^ ((y <<< temperShift2) &&& temperMask2)

/-- Stage 3: `y ^ ((y << 37) & TMASK3)` (R65). -/
def temperStage3 (y : Word) : Word :=
  y ^^^ ((y <<< temperShift3) &&& temperMask3)

/-- Stage 4: `y ^ (y >> 43)`, no mask (R65; 90_conflicts.md C6). -/
def temperStage4 (y : Word) : Word :=
  y ^^^ (y >>> temperShift4)

/-- `temper(y)` (R65). -/
def temper (y : Word) : Word :=
  temperStage4 (temperStage3 (temperStage2 (temperStage1 y)))

end Sys2Proof.Machine
end

