-- ==== Sys2Proof/Machine/Twist.lean ====
section
/-! DEFINITION. The twist / regeneration unit (41_twist.md R58 to R64): the per-word function, the transformation of the
whole array in both modes, and the in-place implementation R63 describes. It reads and writes nothing but `words` and
raises no error (R64). -/

namespace Sys2Proof.Machine

/-- Bits 63..31 of `a`, bits 30..0 of `b` (R58). -/
def combine (a b : Word) : Word :=
  (a &&& upperMask) ||| (b &&& lowerMask)

/-- `mix(x) = (x >> 1) ^ (if x[0] = 1 then MATRIX_A else 0)` (R58). -/
def mix (x : Word) : Word :=
  (x >>> 1) ^^^ (if x.getLsbD 0 then matrixA else 0#64)

/-- `twist_word(a, b, c) = c ^ mix(combine(a, b))` (R58): `a` the word replaced, `b` its successor, `c` the word M places
on. -/
def twistWord (a b c : Word) : Word :=
  c ^^^ mix (combine a b)

/-- The new word `i` of a snapshot twist: only `old` is read (R59). -/
def snapshotWord (old : WordArray) (i : Fin Config.N) : Word :=
  twistWord (old[i.val]'i.isLt) (wordAfter old i.val 1) (wordAfter old i.val Config.M)

/-- TWIST in mode SNAPSHOT: every new word is computed from the array as it was before the twist began (R59).
Irreducible, as the other whole-array functions are: a proof unfolds it by name, never by the unifier. -/
@[irreducible] def twistSnapshot (old : WordArray) : WordArray :=
  ⟨((List.finRange Config.N).map (snapshotWord old)).toArray, by simp⟩

/-- The in-place pass of R60 after its first `n` rounds: words 0..n-1 replaced, each read of the array as it stood at
that moment. -/
def twistPass : (n : Nat) → n ≤ Config.N → WordArray → WordArray
  | 0, _, ws => ws
  | n + 1, h, ws =>
    let cur := twistPass n (Nat.le_of_succ_le h) ws
    cur.set n (twistWord (cur[n]'h) (wordAfter cur n 1) (wordAfter cur n Config.M)) h

/-- TWIST in mode SEQUENTIAL (R60): strictly in increasing order of i. -/
@[irreducible] def twistSequential (ws : WordArray) : WordArray :=
  twistPass Config.N (Nat.le_refl _) ws

/-- TWIST per TWIST_MODE (R61). -/
def twist : Config.TwistMode → WordArray → WordArray
  | .snapshot, ws => twistSnapshot ws
  | .sequential, ws => twistSequential ws

/-- The scratch buffer of R63: the pre-twist values of `words[0..155]`. -/
def scratchOf (old : WordArray) : Vector Word Config.M :=
  Vector.ofFn fun i => old[i.val]'(Nat.lt_trans i.isLt (by decide))

/-- The successor's pre-twist value in the pass of R63: from the scratch buffer for i = 311, from the array elsewhere. -/
def scratchSuccessor (scratch : Vector Word Config.M) (cur : WordArray) (n : Nat) : Word :=
  if n = 311 then scratch[0] else wordAfter cur n 1

/-- The pre-twist value of the word M places on in the pass of R63: from the scratch buffer for i = 156..311, from the
array elsewhere. -/
def scratchMiddle (scratch : Vector Word Config.M) (cur : WordArray) (n : Nat) : Word :=
  if h : 156 ≤ n ∧ n < 312 then scratch[n - 156]'(by simp only [Config.M]; omega) else wordAfter cur n Config.M

/-- The first `n` rounds of the in-place pass with a scratch buffer (R63). -/
def scratchPass (scratch : Vector Word Config.M) : (n : Nat) → n ≤ Config.N → WordArray → WordArray
  | 0, _, ws => ws
  | n + 1, h, ws =>
    let cur := scratchPass scratch n (Nat.le_of_succ_le h) ws
    cur.set n (twistWord (cur[n]'h) (scratchSuccessor scratch cur n) (scratchMiddle scratch cur n)) h

/-- The implementation R63 and R100 describe: one in-place increasing pass that keeps 156 pre-twist words aside. "not a
separate behaviour": no meaning calls it; it is stated equal to R59. -/
@[irreducible] def twistWithScratch (old : WordArray) : WordArray :=
  scratchPass (scratchOf old) Config.N (Nat.le_refl _) old

end Sys2Proof.Machine
end

