-- ==== Sys2Proof/Machine/Draw.lean ====
section
/-! DEFINITION. NEXT, NOP and the reserved request (43_next.md R71 to R78). -/

namespace Sys2Proof.Machine

/-- The first half of a draw: "if index = N: TWIST; index <- 0" (R71, 41_twist.md R61). -/
def regenerateIfExhausted (mode : Config.TwistMode) (s : State) : State :=
  if s.index = 312#9 then (s.setWords (twist mode s.words)).setIndex 0#9 else s

/-- The output stage: `y = words[index]`; `index <- index + 1`; `respond(OK, temper(y))` (R71). The stored word stays raw
(42_temper.md R67). A cursor that names no word, 313..511, is never written by any rule; it is the stop of 93 U6. -/
def outputWord (s : State) : Outcome :=
  match wordAtCursor s.words s.index with
  | some y => respond .ok (temper y) (s.setIndex (s.index + 1#9))
  | none => .fault .cursorOutOfRange

/-- NEXT under a twist mode (R71): the `seeded` test comes before anything is read or written. -/
def nextIn (mode : Config.TwistMode) (s : State) : Outcome :=
  if s.seeded then outputWord (regenerateIfExhausted mode s) else raiseError .unseeded s

/-- NEXT of this hardware: TWIST_MODE = SNAPSHOT (R12, R71). The operand is ignored (R45). -/
def execNext (_operand : Word) (s : State) : Outcome :=
  nextIn twistMode s

/-- NOP: `respond(OK, 0)` and nothing else (R75). The operand is ignored (R45). -/
def execNop (_operand : Word) (s : State) : Outcome :=
  respond .ok 0#64 s

/-- The reserved request: `raise ERR_ILLEGAL_OP`, in any state (R76, R82). The operand is ignored (R45). -/
def execReserved (_operand : Word) (s : State) : Outcome :=
  raiseError .illegalOp s

end Sys2Proof.Machine
end

