-- ==== Sys2Proof/Machine/Seed.lean ====
section
/-! DEFINITION. The seeded state initializer: SEED (40_seed.md R54 to R57). -/

namespace Sys2Proof.Machine

/-- The seeding recurrence `init_step(p, i) = SEED_MULT * (p ^ (p >> SEED_SHIFT)) + zext_64(i)`, modulo 2^64 (R55). -/
def initStep (p : Word) (i : Nat) : Word :=
  seedMult * (p ^^^ (p >>> seedShift)) + BitVec.ofNat 64 i

/-- The words `i, i+1, …` of a seeded array, `n` of them, where `p` is word `i - 1`: "reads the word just written" (R54). -/
def seedTail : (n i : Nat) → (p : Word) → List Word
  | 0, _, _ => []
  | n + 1, i, p => initStep p i :: seedTail n (i + 1) (initStep p i)

theorem seedTail_length : ∀ (n i : Nat) (p : Word), (seedTail n i p).length = n
  | 0, _, _ => rfl
  | n + 1, i, p => by simp [seedTail, seedTail_length n]

/-- The array SEED writes: `words[0] = s` and then 311 applications of R55 in increasing order (R54, R57). It reads no
prior state (R56). -/
@[irreducible] def seedWords (s : Word) : WordArray :=
  ⟨(s :: seedTail 311 1 s).toArray, by simp [seedTail_length]⟩

/-- SEED (R54): all N words, `index <- N` (which makes the next NEXT twist), `seeded <- 1`, response {OK, 0}. It is
accepted in Unseeded and in Seeded and raises no error. -/
def execSeed (v : Word) (s : State) : Outcome :=
  respond .ok 0#64 (((s.setWords (seedWords v)).setIndex 312#9).setSeeded true)

end Sys2Proof.Machine
end

