-- ==== Sys2Proof/Machine/Dispatch.lean ====
section
/-! DEFINITION. One arm per constructor of Instr (spec/opcode_table.json). -/

namespace Sys2Proof.Machine

def exec (i : Instr) (s : State) : Host.Outcome State Fault Refusal :=
  match i with
  | .nop operand => Sys2Proof.Machine.execNop operand s
  | .seed v => Sys2Proof.Machine.execSeed v s
  | .next operand => Sys2Proof.Machine.execNext operand s
  | .reserved operand => Sys2Proof.Machine.execReserved operand s

end Sys2Proof.Machine
end

