-- ==== Sys2Proof/Machine/Step.lean ====
section
/-! DEFINITION. One step of the machine: the host's next move, taken whole (20_memory.md R37). There is no program
counter and no fetch from memory (10_state.md R26, R40): the request to run is the first of `inputs`. -/

namespace Sys2Proof.Machine

/-- A request is decoded and performed completely (R37, R50); a reset puts the engine in its reset state (R94), and
abandons an outstanding request (R95); with no move of the host the state persists, unchanged (60_exceptions.md R93;
log 4). -/
def step (s : State) : Host.Outcome State Fault Refusal :=
  match s.inputs with
  | [] => .next s
  | .request w :: rest => exec (decode w) (s.setInputs rest)
  | .reset :: rest => .next (applyReset (s.setInputs rest))
  | .resetDuring w :: rest => .next (abandonByReset w (s.setInputs rest))

/-- `s` with the request that the table word `w` stands for as the host's very next move. A program comes to run by the
host's sending it: this stands for that (log 3). Bits that are no request word (R49) are not sent. -/
def State.withFetchWord (s : State) (nbits w : Nat) : State :=
  match readRequest (w % 2 ^ nbits) with
  | .ok req => s.setInputs (.request req :: s.inputs)
  | .error _ => s

end Sys2Proof.Machine
end

