-- ==== Sys2Proof/Machine/Assembler.lean ====
section
/-! DEFINITION. The assembler language and the listing of request words (30_encoding.md R51, R52). Text is a list of
characters. What R51 leaves open (which characters are blanks, the case of hex digits and mnemonics, whether `-0` is an immediate) is
log entry 13. -/

namespace Sys2Proof.Machine

/-- Why a line is an assembly error. -/
inductive AsmError where
  /-- A negative immediate, or one over 2^64-1: "an assembly error, never wrapped" (R51). -/
  | immediateOutOfRange
  /-- A line that is none of the forms of R51. -/
  | notALine
  deriving DecidableEq, Repr

/-- The request word of a line; the mnemonics assemble to `.req 0b00, 0`, `.req 0b01, <imm>` and `.req 0b10, 0` (R51). -/
def assemble : AsmLine → Except AsmError ReqWord
  | .nop => .ok (0b00#2 ++ 0#64)
  | .seed imm => if immInRange imm then .ok (0b01#2 ++ BitVec.ofInt 64 imm) else .error .immediateOutOfRange
  | .next => .ok (0b10#2 ++ 0#64)
  | .req op operand => if immInRange operand then .ok (op ++ BitVec.ofInt 64 operand) else .error .immediateOutOfRange

/-- A blank between the parts of a line. -/
def isBlank (c : Char) : Bool :=
  c == ' ' || c == '\t'

/-- The text without blanks at either end. -/
def trimBlanks (cs : List Char) : List Char :=
  ((cs.dropWhile isBlank).reverse.dropWhile isBlank).reverse

/-- "`;` starts a comment" (R51). -/
def stripComment (cs : List Char) : List Char :=
  cs.takeWhile (fun c => c != ';')

/-- The value of a decimal digit. -/
def decDigit (c : Char) : Option Nat :=
  if 48 ≤ c.toNat ∧ c.toNat ≤ 57 then some (c.toNat - 48) else none

/-- The value of a hex digit, in either case. -/
def hexDigit (c : Char) : Option Nat :=
  if 48 ≤ c.toNat ∧ c.toNat ≤ 57 then some (c.toNat - 48)
  else if 65 ≤ c.toNat ∧ c.toNat ≤ 70 then some (c.toNat - 55)
  else if 97 ≤ c.toNat ∧ c.toNat ≤ 102 then some (c.toNat - 87)
  else none

/-- The number that digits write in a base, after the value `acc` of the digits before them. -/
def readDigits (digit : Char → Option Nat) (base : Nat) : Nat → List Char → Option Nat
  | acc, [] => some acc
  | acc, c :: cs =>
    match digit c with
    | some d => readDigits digit base (acc * base + d) cs
    | none => none

/-- A decimal number of at least one digit. -/
def readDecimal : List Char → Option Nat
  | [] => none
  | c :: cs => readDigits decDigit 10 0 (c :: cs)

/-- An immediate: decimal, or `0x` followed by 1 to 16 hex digits (R51). A minus sign before decimal digits is read, so
that a negative value is refused as what it is (`immediateOutOfRange`). DESIGN CHOICE (log 13): R51 does not say whether
`-0` is an immediate; its value is 0, neither negative nor wide, and the model takes it as 0. A minus sign before a hex
number is no immediate at all (`notALine`). -/
def readImm : List Char → Option Int
  | '0' :: 'x' :: ds =>
    if 1 ≤ ds.length ∧ ds.length ≤ 16 then (readDigits hexDigit 16 0 ds).map Int.ofNat else none
  | '-' :: ds => (readDecimal ds).map fun n => -(Int.ofNat n)
  | ds => (readDecimal ds).map Int.ofNat

/-- `<op>`: `0b` and two binary digits (R51). -/
def readOp : List Char → Option (BitVec 2)
  | ['0', 'b', '0', '0'] => some 0b00#2
  | ['0', 'b', '0', '1'] => some 0b01#2
  | ['0', 'b', '1', '0'] => some 0b10#2
  | ['0', 'b', '1', '1'] => some 0b11#2
  | _ => none

/-- `<op>, <operand>` (R51). -/
def readReq (cs : List Char) : Option AsmLine :=
  match cs.dropWhile (fun c => c != ',') with
  | ',' :: after =>
    match readOp (trimBlanks (cs.takeWhile (fun c => c != ','))), readImm (trimBlanks after) with
    | some op, some imm => some (.req op imm)
    | _, _ => none
  | _ => none

/-- A line from its first word and the rest of it. -/
def readForm (word rest : List Char) : Option AsmLine :=
  if word = ['N', 'O', 'P'] then (if rest = [] then some .nop else none)
  else if word = ['N', 'E', 'X', 'T'] then (if rest = [] then some .next else none)
  else if word = ['S', 'E', 'E', 'D'] then (readImm rest).map AsmLine.seed
  else if word = ['.', 'r', 'e', 'q'] then readReq rest
  else none

/-- One line of text: nothing on a blank or comment line, one request otherwise (R51). -/
def parseLine (text : List Char) : Except AsmError (Option AsmLine) :=
  let cs := trimBlanks (stripComment text)
  if cs = [] then .ok none
  else
    match readForm (cs.takeWhile (fun c => !isBlank c)) (trimBlanks (cs.dropWhile (fun c => !isBlank c))) with
    | some line => .ok (some line)
    | none => .error .notALine

/-- The request word of one line of text, if it holds a request. -/
def assembleText (text : List Char) : Except AsmError (Option ReqWord) :=
  match parseLine text with
  | .error e => .error e
  | .ok none => .ok none
  | .ok (some line) => (assemble line).map some

/-- A hex digit as the listing writes it. -/
def hexChar (d : Nat) : Char :=
  if d < 10 then Char.ofNat (48 + d) else Char.ofNat (55 + d)

/-- A request word as R52 lists it: `0x` and 17 hex digits, the value `op * 2^64 + operand`. -/
def listing (w : ReqWord) : List Char :=
  '0' :: 'x' :: (List.range 17).map fun k => hexChar (w.toNat / 16 ^ (16 - k) % 16)

end Sys2Proof.Machine
end

