-- ==== Sys2Proof/Machine/Platform.lean ====
section
/-! DEFINITION. Several engines (60_exceptions.md R91): each has its own `words`, `index` and `seeded` and shares nothing
with another. One engine is the machine of Machine/Core.lean; a platform is a list of engines, and how many is the
integrator's parameter INSTANCE_COUNT (00_scope.md R14; log 12). -/

namespace Sys2Proof.Machine

/-- Independent engines. "There are no identifiers, no inter-engine signals and no shared state" (R91). -/
structure Platform where
  engines : List State
  deriving DecidableEq, Repr

/-- Each engine "starts in reset state" (R91), its unspecified words drawn from a stream of its own. -/
def Platform.reset (p : Config.Integration) : Platform where
  engines := (List.range p.instanceCount).map fun k => State.powerOn { stream := k, taken := 0 }

/-- The engine numbered `k` makes one step. -/
def Platform.stepEngine (p : Platform) (k : Fin p.engines.length) : Host.Outcome Platform Fault Refusal :=
  match step p.engines[k] with
  | .next t => .next { engines := p.engines.set k t }
  | .fault r => .fault r
  | .refused r => .refused r

end Sys2Proof.Machine
end

