-- ==== Sys2Proof/Safety.lean ====
section
/-! DEFINITION. What the statements speak of: runs, the invariants of reachable states (10_state.md R23), the observation
of a run (70_reset_and_hazards.md R105), what the unspecified words may not reach (R28), and the sequence of outputs a
seed determines (43_next.md R72). -/

namespace Sys2Proof.Machine

/-- `k` steps, stopping at the first fault or refusal. -/
def run : Nat → State → Outcome
  | 0, s => .next s
  | k + 1, s =>
    match step s with
    | .next t => run k t
    | .fault r => .fault r
    | .refused r => .refused r

/-- `k` draws in a row under a twist mode, so that a claim can name SEQUENTIAL too (00_scope.md R12). -/
def drawMany (mode : Config.TwistMode) : Nat → State → Outcome
  | 0, s => .next s
  | k + 1, s =>
    match nextIn mode s with
    | .next t => drawMany mode k t
    | .fault r => .fault r
    | .refused r => .refused r

/-- R23: the cursor lies in 0..N, and in Unseeded it "is always its reset value N". (That the array has N words is its
type.) -/
abbrev State.Inv (s : State) : Prop :=
  s.index.toNat ≤ 312 ∧ (s.seeded = false → s.index = 312#9)

/-- R48: `result` is 0 in every response whose status is not OK. -/
def Event.resultZeroOnError : Event → Bool
  | .answered r => decide (r.status = .ok) || decide (r.result = 0#64)
  | .reset => true

/-- R48 of the whole history. -/
abbrev State.EventsSound (s : State) : Prop :=
  s.events.all Event.resultZeroOnError = true

/-- The responses of the current run: those after the last reset (R105). -/
def observeFrom (acc : List Response) : List Event → List Response
  | [] => acc
  | .answered r :: es => observeFrom (acc ++ [r]) es
  | .reset :: es => observeFrom [] es

/-- A run's observation: "the list of responses, one per request, in order" (R105). -/
def State.observation (s : State) : List Response :=
  observeFrom [] s.events

/-- R86: "no error happened", of the current run, as a premise for a claim. -/
abbrev State.NoError (s : State) : Prop :=
  s.observation.all (fun r => decide (r.status = .ok)) = true

/-- Two engines that differ at most in the words of an Unseeded array: what R28 says no observation can tell apart. -/
structure State.AgreeUnlessUnseeded (s t : State) : Prop where
  index : s.index = t.index
  seeded : s.seeded = t.seeded
  inputs : s.inputs = t.inputs
  events : s.events = t.events
  freeDraw : s.freeDraw = t.freeDraw
  words : s.seeded = true → s.words = t.words

/-- The arrays of R72: `A_0` is the array SEED wrote, `A_{j+1} = TWIST(A_j)`. -/
def generation (mode : Config.TwistMode) (v : Word) : Nat → WordArray
  | 0 => seedWords v
  | q + 1 => twist mode (generation mode v q)

/-- Output #k after `SEED v`: `temper(A_{q+1}[r])` with `q = k div 312`, `r = k mod 312` (R72). -/
def output (mode : Config.TwistMode) (v : Word) (k : Nat) : Word :=
  temper ((generation mode v (k / 312 + 1))[k % 312]'(Nat.mod_lt _ (by decide)))

/-- How many twists have run after SEED and `k` draws: `ceil(k / 312)` (R73). -/
def twistsAfter (k : Nat) : Nat :=
  (k + 311) / 312

end Sys2Proof.Machine
end

