-- ==== Sys2Proof/Certificates/Slice0/Obligations.lean ====
section
/-! DEFINITION. The statements for the provers. Each docstring names the rule of spec/ it formalises. No statement rests
on the value of a free reset word or of `freeDraw`. -/

open Sys2Proof Sys2Proof.Machine

/-! ### Requests and responses as words -/

/-- Decoding and encoding are inverse, both ways, for every operand at every value. The first direction (30_encoding.md
R42, R44, R50) says that each request is read back from its word. The second, that each of the 2^66 words is the word of
the request it decodes to, is the model's choice (log entry 10, DESIGN CHOICE): it holds only because `nop`, `next` and
`reserved` keep the operand that R45 ignores; R50's own dispatch drops it, and so reads several words as one request. -/
def Obligations.DecodeAndEncodeAreInverse : Prop :=
  (∀ i : Instr, decode (encode i) = i) ∧ (∀ w : ReqWord, encode (decode w) = w)

/-- R50 (and the opcode map R44): a request word decodes by `op` = bits 65:64 alone, its operand being bits 63:0. -/
def Obligations.DecodeSelectsByOpAlone : Prop :=
  ∀ w : ReqWord,
    (w.extractLsb' 64 2 = 0b00#2 → decode w = .nop (w.extractLsb' 0 64)) ∧
    (w.extractLsb' 64 2 = 0b01#2 → decode w = .seed (w.extractLsb' 0 64)) ∧
    (w.extractLsb' 64 2 = 0b10#2 → decode w = .next (w.extractLsb' 0 64)) ∧
    (w.extractLsb' 64 2 = 0b11#2 → decode w = .reserved (w.extractLsb' 0 64))

/-- R52's four listed words (NOP, SEED 5489, NEXT and `.req 0b11, 0`), P4's widest seed, and 95 §2.8's NEXT and reserved
word with an operand, decoded. -/
def Obligations.ListedRequestWordsDecode : Prop :=
  decode 0x00000000000000000#66 = .nop 0#64 ∧
  decode 0x10000000000001571#66 = .seed 5489#64 ∧
  decode 0x1FFFFFFFFFFFFFFFF#66 = .seed 0xFFFFFFFFFFFFFFFF#64 ∧
  decode 0x20000000000000000#66 = .next 0#64 ∧
  decode 0x2000000000000FFFF#66 = .next 0xFFFF#64 ∧
  decode 0x30000000000000000#66 = .reserved 0#64 ∧
  decode 0x30000000000001234#66 = .reserved 0x1234#64

/-- R49: every request is 66 bits; a number decodes exactly when it fits in 66 bits, and then as that request word (the
refusal of wider numbers is the model's choice, log entry 14). -/
def Obligations.OnlySixtySixBitsDecode : Prop :=
  (∀ w : ReqWord, decodeBits w.toNat = .ok (decode w)) ∧
  (∀ n : Nat, 2 ^ 66 ≤ n → decodeBits n = .error .widerThanRequest)

/-- R45: SEED takes its operand whole; NOP, NEXT and the reserved op ignore theirs: any value gives the same response and
next state. -/
def Obligations.OperandIsSeedOrIgnored : Prop :=
  (∀ v : Word, decode (0b01#2 ++ v : ReqWord) = .seed v) ∧
  (∀ (a b : Word) (s : State),
    exec (decode (0b00#2 ++ a : ReqWord)) s = exec (decode (0b00#2 ++ b : ReqWord)) s ∧
    exec (decode (0b10#2 ++ a : ReqWord)) s = exec (decode (0b10#2 ++ b : ReqWord)) s ∧
    exec (decode (0b11#2 ++ a : ReqWord)) s = exec (decode (0b11#2 ++ b : ReqWord)) s)

/-- R43, R47: the response word carries the status code in bits 65:64 and the result in bits 63:0, no response carries the
code 11, and reading the word gives the response back. That a host refuses a word with status 11 is 93 U7 (log 17). -/
def Obligations.ResponseWordsCarryStatusAndResult : Prop :=
  (∀ r : Response,
    (Response.encode r).extractLsb' 0 64 = r.result ∧
    (r.status = .ok → (Response.encode r).extractLsb' 64 2 = 0b00#2) ∧
    (r.status = .errUnseeded → (Response.encode r).extractLsb' 64 2 = 0b01#2) ∧
    (r.status = .errIllegalOp → (Response.encode r).extractLsb' 64 2 = 0b10#2) ∧
    decodeResponse (Response.encode r) = some r) ∧
  (∀ w : RspWord, w.extractLsb' 64 2 = 0b11#2 ↔ decodeResponse w = none)

/-! ### NOP and the reserved request -/

/-- 43_next.md R75: op 00 with any operand responds {OK, 0} and changes nothing else, in any state. -/
def Obligations.NopRespondsOkAndChangesNothing : Prop :=
  ∀ (operand : Word) (s : State),
    decode (0b00#2 ++ operand : ReqWord) = .nop operand ∧
    exec (.nop operand) s = .next { s with events := s.events ++ [.answered ⟨.ok, 0#64⟩] }

/-- 43_next.md R76, 60_exceptions.md R82, 30_encoding.md R46: op 11 with any operand, in any state, responds
{ERR_ILLEGAL_OP, 0}, whose code is 10, and changes nothing else; no other request is answered so. -/
def Obligations.ReservedRaisesIllegalOpAlone : Prop :=
  Status.code .errIllegalOp = 0b10#2 ∧
  (∀ (operand : Word) (s : State),
    decode (0b11#2 ++ operand : ReqWord) = .reserved operand ∧
    exec (.reserved operand) s = .next { s with events := s.events ++ [.answered ⟨.errIllegalOp, 0#64⟩] }) ∧
  (∀ (i : Instr) (s t : State) (r : Response), exec i s = .next t → t.events = s.events ++ [.answered r] →
    r.status = .errIllegalOp → ∃ operand, i = .reserved operand)

/-! ### SEED -/

/-- 40_seed.md R54, R55: SEED with any operand, in any state, answers a next state whose words meet the recurrence with
the literal multiplier, whose cursor is N and which is Seeded, with the response {OK, 0} and nothing else changed. -/
def Obligations.SeedInitialisesTheWholeState : Prop :=
  ∀ (v : Word) (s : State),
    decode (0b01#2 ++ v : ReqWord) = .seed v ∧
    ∃ t : State, exec (.seed v) s = .next t ∧
      t.words[0] = v ∧
      (∀ (i : Nat) (h : i + 1 < 312), t.words[i + 1]'h =
        6364136223846793005#64 * (t.words[i]'(Nat.lt_of_succ_lt h) ^^^ (t.words[i]'(Nat.lt_of_succ_lt h) >>> 62))
          + BitVec.ofNat 64 (i + 1)) ∧
      t.index = 312#9 ∧ t.seeded = true ∧
      t.events = s.events ++ [.answered ⟨.ok, 0#64⟩] ∧ t.inputs = s.inputs ∧ t.freeDraw = s.freeDraw

/-- R56: SEED leaves `words`, `index` and `seeded` as a fresh engine's SEED does, whatever the state before it and whatever
the fresh engine's unspecified words, and any number of draws then returns the same responses, in either mode. -/
def Obligations.SeedRestartsTheSequence : Prop :=
  ∀ (v : Word) (s : State) (d : FreeDraw), ∃ t u : State,
    exec (.seed v) s = .next t ∧ exec (.seed v) (State.powerOn d) = .next u ∧
    t.words = u.words ∧ t.index = u.index ∧ t.seeded = u.seeded ∧
    ∀ (mode : Config.TwistMode) (k : Nat), ∃ (t' u' : State) (new : List Event),
      drawMany mode k t = .next t' ∧ drawMany mode k u = .next u' ∧
      t'.events = t.events ++ new ∧ u'.events = u.events ++ new ∧ new.length = k

/-- 20_memory.md R36: "`SEED s; SEED s` leaves the same state as `SEED s`" (the history apart). -/
def Obligations.SeedIsIdempotent : Prop :=
  ∀ (v : Word) (s : State), ∃ t u : State, exec (.seed v) s = .next t ∧ exec (.seed v) t = .next u ∧
    u.words = t.words ∧ u.index = t.index ∧ u.seeded = t.seeded

/-! ### NEXT -/

/-- 43_next.md R71 for this hardware (TWIST_MODE = SNAPSHOT, 00_scope.md R12): op 10 with any operand. Unseeded: the error
and no change. Seeded with the cursor at N: the twist, the new word 0 tempered, cursor 1. Seeded with the cursor below N: the
word at the cursor tempered, the cursor one further, no twist. Nothing else changes. -/
def Obligations.NextReturnsTheNextTemperedWord : Prop :=
  ∀ (operand : Word) (s : State),
    decode (0b10#2 ++ operand : ReqWord) = .next operand ∧
    (s.seeded = false →
      exec (.next operand) s = .next { s with events := s.events ++ [.answered ⟨.errUnseeded, 0#64⟩] }) ∧
    (s.seeded = true → s.index = 312#9 →
      exec (.next operand) s = .next { s with
        words := twistSnapshot s.words
        index := 1#9
        events := s.events ++ [.answered ⟨.ok, temper (twistSnapshot s.words)[0]⟩] }) ∧
    (s.seeded = true → ∀ h : s.index.toNat < 312, ∃ next : BitVec 9, next.toNat = s.index.toNat + 1 ∧
      exec (.next operand) s = .next { s with
        index := next
        events := s.events ++ [.answered ⟨.ok, temper (s.words[s.index.toNat]'h)⟩] })

/-- R71 and 41_twist.md R61 under the other configuration value: the same draw with the sequential twist. -/
def Obligations.SequentialModeDrawsTheSameWay : Prop :=
  ∀ s : State,
    (s.seeded = false →
      nextIn .sequential s = .next { s with events := s.events ++ [.answered ⟨.errUnseeded, 0#64⟩] }) ∧
    (s.seeded = true → s.index = 312#9 →
      nextIn .sequential s = .next { s with
        words := twistSequential s.words
        index := 1#9
        events := s.events ++ [.answered ⟨.ok, temper (twistSequential s.words)[0]⟩] }) ∧
    (s.seeded = true → s.index ≠ 312#9 → nextIn .sequential s = nextIn .snapshot s)

/-- 60_exceptions.md R81: ERR_UNSEEDED has the code 01, is the answer to NEXT while Unseeded, with result 0 and no change
(so the block does not seed itself), and to nothing else. -/
def Obligations.UnseededErrorIsExactlyNextBeforeSeed : Prop :=
  Status.code .errUnseeded = 0b01#2 ∧
  (∀ (operand : Word) (s : State), s.seeded = false →
    exec (.next operand) s = .next { s with events := s.events ++ [.answered ⟨.errUnseeded, 0#64⟩] }) ∧
  (∀ (i : Instr) (s t : State) (r : Response), exec i s = .next t → t.events = s.events ++ [.answered r] →
    r.status = .errUnseeded → s.seeded = false ∧ ∃ operand, i = .next operand)

/-- R48: `result` is the tempered word just consumed for a NEXT answered OK, and 0 for every other response. -/
def Obligations.ResultIsTheTemperedWordOrZero : Prop :=
  ∀ (i : Instr) (s t : State) (r : Response), exec i s = .next t → t.events = s.events ++ [.answered r] →
    ((∃ operand, i = .next operand) ∧ r.status = .ok ∧
      ∃ h : t.index.toNat - 1 < 312, 1 ≤ t.index.toNat ∧ r.result = temper (t.words[t.index.toNat - 1]'h)) ∨
    (¬ ((∃ operand, i = .next operand) ∧ r.status = .ok) ∧ r.result = 0#64)

/-- 93 U6, 10_state.md R21: the one stop of the model. A request faults exactly when it is a NEXT in Seeded with the cursor
in 313..511, values no rule writes; no request is refused. -/
def Obligations.OnlyAnUnreachableCursorStops : Prop :=
  ∀ (i : Instr) (s : State),
    (∀ f : Fault, exec i s = .fault f ↔
      (∃ operand, i = .next operand) ∧ s.seeded = true ∧ 312 < s.index.toNat ∧ f = .cursorOutOfRange) ∧
    (∀ r : Refusal, exec i s ≠ .refused r)

/-! ### The twist -/

/-- 41_twist.md R58 with the literals of 00_scope.md R7 to R9: `combine` takes bits 63..31 of `a` and bits 30..0 of `b`;
`mix` shifts right by one and adds MATRIX_A when bit 0 is set; `twist_word` XORs in `c`. -/
def Obligations.TwistWordCombinesAndMixes : Prop :=
  (∀ (a b : Word) (k : Nat), k < 64 → (combine a b).getLsbD k = if 31 ≤ k then a.getLsbD k else b.getLsbD k) ∧
  (∀ x : Word, x.getLsbD 0 = false → mix x = x >>> 1) ∧
  (∀ x : Word, x.getLsbD 0 = true → mix x = (x >>> 1) ^^^ 0xB5026F5AA96619E9#64) ∧
  (∀ a b c : Word, twistWord a b c = c ^^^ mix (combine a b))

/-- R59: every new word is computed from the array as it was before the twist began. -/
def Obligations.SnapshotTwistReadsTheOldArray : Prop :=
  ∀ (old : WordArray) (i : Nat) (h : i < 312),
    (twistSnapshot old)[i]'h =
      twistWord (old[i]'h) (old[(i + 1) % 312]'(Nat.mod_lt _ (by decide))) (old[(i + 156) % 312]'(Nat.mod_lt _ (by decide)))

/-- R60: in place in increasing order: words 156..311 read the new `words[i-156]`, and word 311 the new `words[0]`;
every other read is of the old array. -/
def Obligations.SequentialTwistReadsReplacedWords : Prop :=
  ∀ (ws : WordArray) (i : Nat) (h : i < 312),
    (twistSequential ws)[i]'h =
      twistWord (ws[i]'h)
        (if h1 : i + 1 < 312 then ws[i + 1]'h1 else (twistSequential ws)[0])
        (if h2 : i + 156 < 312 then ws[i + 156]'h2 else (twistSequential ws)[i - 156]'(by simp only [Config.N]; omega))

/-- R62: the two modes write the same new words 0..155, so the outputs #0..#155 after a SEED are the same in both. -/
def Obligations.ModesAgreeOnTheFirst156 : Prop :=
  (∀ (ws : WordArray) (i : Nat) (h : i < 156),
    (twistSnapshot ws)[i]'(Nat.lt_trans h (by decide)) = (twistSequential ws)[i]'(Nat.lt_trans h (by decide))) ∧
  (∀ (v : Word) (k : Nat), k < 156 → output .snapshot v k = output .sequential v k)

/-- R63, 70_reset_and_hazards.md R100: the in-place increasing pass that keeps the 156 pre-twist words in a scratch buffer
gives the result of R59, for every array. -/
def Obligations.ScratchBufferPassMeetsSnapshot : Prop :=
  ∀ old : WordArray, twistWithScratch old = twistSnapshot old

/-! ### Tempering -/

/-- 42_temper.md R65: the four stages with the literal masks and shift amounts of 00_scope.md R11. -/
def Obligations.TemperIsItsFourStages : Prop :=
  ∀ y y1 y2 y3 : Word,
    y1 = y ^^^ ((y >>> 29) &&& 0x5555555555555555#64) →
    y2 = y1 ^^^ ((y1 <<< 17) &&& 0x71D67FFFEDA60000#64) →
    y3 = y2 ^^^ ((y2 <<< 37) &&& 0xFFF7EEE000000000#64) →
    temper y = y3 ^^^ (y3 >>> 43)

/-- R68: each XOR-shift stage with a shift of 1..63 is a bijection, and so is `temper`. -/
def Obligations.TemperIsABijection : Prop :=
  (∀ (k : Nat) (m : Word), 1 ≤ k → k ≤ 63 →
    Function.Bijective (fun v : Word => v ^^^ ((v >>> k) &&& m)) ∧
    Function.Bijective (fun v : Word => v ^^^ ((v <<< k) &&& m))) ∧
  Function.Bijective temper

/-! ### The sequence of outputs -/

/-- 43_next.md R72, R73, in both modes: after `SEED v` in any state, K draws all succeed and return outputs #0..#K-1, output
#k being word `k mod 312` of the array after `k div 312 + 1` twists, tempered; exactly ceil(K/312) twists have run and the
cursor is K - 312*(ceil(K/312) - 1), or 312 when K = 0. -/
def Obligations.DrawsAfterSeedFollowTheGenerations : Prop :=
  ∀ (mode : Config.TwistMode) (v : Word) (k : Nat) (s : State), ∃ t u : State,
    exec (.seed v) s = .next t ∧ drawMany mode k t = .next u ∧
    u.events = t.events ++ (List.range k).map (fun j => Event.answered ⟨.ok, output mode v j⟩) ∧
    u.words = generation mode v (twistsAfter k) ∧
    u.index.toNat = (if k = 0 then 312 else k - 312 * (twistsAfter k - 1)) ∧
    u.seeded = true ∧ u.inputs = t.inputs ∧ u.freeDraw = t.freeDraw

/-- The same through `step`, on request words with any operands, for this hardware: one SEED and then K NEXTs among the
host's moves give the responses {OK, 0}, {OK, output #0}, ..., {OK, output #K-1}. -/
def Obligations.SeededRunReturnsTheOutputs : Prop :=
  ∀ (v : Word) (operands : List Word) (rest : List HostInput) (s : State),
    s.inputs = .request (0b01#2 ++ v) :: (operands.map (fun o => HostInput.request (0b10#2 ++ o)) ++ rest) →
    ∃ u : State, run (operands.length + 1) s = .next u ∧ u.inputs = rest ∧
      u.events = s.events ++ .answered ⟨.ok, 0#64⟩ ::
        (List.range operands.length).map (fun j => Event.answered ⟨.ok, output .snapshot v j⟩)

/-! ### A step of the machine -/

/-- 20_memory.md R37, 30_encoding.md R50: the next request word is decoded and performed whole; nothing is added around
`exec` but that the word is consumed. -/
def Obligations.StepRunsTheDecodedRequest : Prop :=
  ∀ (s : State) (w : ReqWord) (rest : List HostInput), s.inputs = .request w :: rest →
    step s = exec (decode w) { s with inputs := rest }

/-- The model's choice (log 3): a word placed by `withFetchWord` is the request the very next step runs, and the decoder
reads the same request from it. -/
def Obligations.PlacedWordRunsNext : Prop :=
  ∀ (s : State) (nbits w : Nat) (h : w % 2 ^ nbits < 2 ^ 66),
    step (s.withFetchWord nbits w) = exec (decode (BitVec.ofFin ⟨w % 2 ^ nbits, h⟩)) s ∧
    decodeTableWord nbits w = some (decode (BitVec.ofFin ⟨w % 2 ^ nbits, h⟩))

/-- 30_encoding.md R43: the block answers every accepted request with exactly one response; it comes once the request
has been consumed, and the earlier history stands. -/
def Obligations.EveryRequestIsAnsweredOnce : Prop :=
  ∀ (s t : State) (w : ReqWord) (rest : List HostInput), s.inputs = .request w :: rest → step s = .next t →
    t.inputs = rest ∧ t.freeDraw = s.freeDraw ∧ ∃ r : Response, t.events = s.events ++ [.answered r]

/-- 60_exceptions.md R93 (the model's idle step, log 4): with no move of the host the state persists, unchanged. -/
def Obligations.IdleStatePersists : Prop :=
  ∀ s : State, s.inputs = [] → step s = .next s

/-- 60_exceptions.md R80: an error response changes nothing but the history, and its result is 0. -/
def Obligations.ErrorsChangeNoState : Prop :=
  ∀ (i : Instr) (s t : State) (r : Response), exec i s = .next t → t.events = s.events ++ [.answered r] →
    r.status ≠ .ok → r.result = 0#64 ∧ t = { s with events := s.events ++ [.answered r] }

/-- 10_state.md R29: the response to a request and the elements after it are a function of the request and of `words`,
`index`, `seeded` alone (neither the history nor the host's coming moves are read); after SEED they do not depend on the
state before, and two engines seeded identically give identical output sequences, element for element. -/
def Obligations.ResponseDependsOnEngineStateAlone : Prop :=
  (∀ (i : Instr) (s s' t : State), s.words = s'.words → s.index = s'.index → s.seeded = s'.seeded →
    exec i s = .next t →
    ∃ (t' : State) (r : Response), exec i s' = .next t' ∧ t.events = s.events ++ [.answered r] ∧
      t'.events = s'.events ++ [.answered r] ∧ t'.words = t.words ∧ t'.index = t.index ∧ t'.seeded = t.seeded) ∧
  (∀ (v : Word) (s s' : State), ∃ t t' : State, exec (.seed v) s = .next t ∧ exec (.seed v) s' = .next t' ∧
    t'.words = t.words ∧ t'.index = t.index ∧ t'.seeded = t.seeded ∧
    ∀ k : Nat, ∃ (u u' : State) (new : List Event), drawMany twistMode k t = .next u ∧ drawMany twistMode k t' = .next u' ∧
      new.length = k ∧ u.events = t.events ++ new ∧ u'.events = t'.events ++ new)

/-- 10_state.md R22: SEED sets `seeded` to 1, reset sets it to 0, and no other move of the host changes it. -/
def Obligations.OnlySeedAndResetWriteSeeded : Prop :=
  (∀ (v : Word) (s t : State), exec (.seed v) s = .next t → t.seeded = true) ∧
  (∀ s : State, (applyReset s).seeded = false) ∧
  (∀ s t : State, step s = .next t → t.seeded ≠ s.seeded →
    (∃ (v : Word) (rest : List HostInput), s.inputs = .request (0b01#2 ++ v) :: rest ∧ t.seeded = true) ∨
    (∃ rest : List HostInput, s.inputs = .reset :: rest ∧ t.seeded = false) ∨
    (∃ (w : ReqWord) (rest : List HostInput), s.inputs = .resetDuring w :: rest ∧ t.seeded = false))

/-- 10_state.md R20, R21, as a frame over requests: `words` changes only by SEED and by a NEXT that twists (Seeded, cursor
at N); `index` only by SEED (to N), by a twisting NEXT (to 1) and by another successful NEXT (by one). -/
def Obligations.RequestsWriteWordsAndIndexOnlyWhereStated : Prop :=
  ∀ (i : Instr) (s t : State), exec i s = .next t →
    (t.words ≠ s.words →
      (∃ v, i = .seed v) ∨ ((∃ operand, i = .next operand) ∧ s.seeded = true ∧ s.index = 312#9)) ∧
    (t.index ≠ s.index →
      (∃ v, i = .seed v ∧ t.index = 312#9) ∨
      ((∃ operand, i = .next operand) ∧ s.seeded = true ∧
        t.index.toNat = (if s.index = 312#9 then 1 else s.index.toNat + 1)))

/-! ### Reset -/

/-- 70_reset_and_hazards.md R94: the reset input puts the engine in the reset state, gets no response, and consumes no
request; every free reset word is left unsaid. The mark in the history is the model's (log 5). -/
def Obligations.ResetInputPutsEngineInResetState : Prop :=
  ∀ (s : State) (rest : List HostInput), s.inputs = .reset :: rest →
    ∃ t : State, step s = .next t ∧ t.seeded = false ∧ t.index = 312#9 ∧ t.inputs = rest ∧
      t.events = s.events ++ [.reset] ∧ t.observation = []

/-- R95 (the model's input for it, log 6): reset while a request is outstanding is the same reset, and the abandoned
request gets no response: which request it was makes no difference to anything after. -/
def Obligations.ResetAbandonsTheOutstandingRequest : Prop :=
  ∀ (s : State) (w : ReqWord) (rest : List HostInput), s.inputs = .resetDuring w :: rest →
    step s = step { s with inputs := .reset :: rest } ∧
    ∃ t : State, step s = .next t ∧ t.events = s.events ++ [.reset] ∧ t.observation = []

/-- 10_state.md R28: reset gives Unseeded and cursor N, and the unspecified words are never observed: two engines that
agree on everything but the words of an Unseeded array answer every list of the host's moves alike, and agree on the words
too once Seeded. -/
def Obligations.UnspecifiedWordsAreNeverObserved : Prop :=
  (∀ s : State, (applyReset s).seeded = false ∧ (applyReset s).index = 312#9) ∧
  (State.reset.seeded = false ∧ State.reset.index = 312#9) ∧
  (∀ (k : Nat) (s t s' : State), s.AgreeUnlessUnseeded t → run k s = .next s' →
    ∃ t' : State, run k t = .next t' ∧ s'.AgreeUnlessUnseeded t')

/-! ### Invariants and whole runs -/

/-- R23 at reset, whatever the unspecified words are, and R48 of the empty history. -/
def Obligations.ResetMeetsTheInvariants : Prop :=
  State.reset.Inv ∧ State.reset.EventsSound ∧ ∀ d : FreeDraw, (State.powerOn d).Inv ∧ (State.powerOn d).EventsSound

/-- 10_state.md R23, from every state that meets the invariants and not only from reset: the array has N words, every step
keeps `0 <= index <= N` and "in Unseeded the cursor is N", and any NEXT, successful or refused, leaves `index` in 1..N; the
reset state meets them, whatever its unspecified words are. -/
def Obligations.CursorInvariantsHoldAndAreKept : Prop :=
  (∀ d : FreeDraw, (State.powerOn d).Inv) ∧
  (∀ s : State, s.words.toList.length = 312) ∧
  (∀ s t : State, s.Inv → step s = .next t → t.Inv) ∧
  (∀ (operand : Word) (s t : State), s.Inv → exec (.next operand) s = .next t →
    1 ≤ t.index.toNat ∧ t.index.toNat ≤ 312)

/-- 30_encoding.md R48 as an invariant of the history: every step keeps "an error response has result 0". -/
def Obligations.StepKeepsErrorResultsZero : Prop :=
  ∀ s t : State, s.EventsSound → step s = .next t → t.EventsSound

/-- 70_reset_and_hazards.md R104 and 43_next.md R71 ("the operation is total over all reachable states"): from every state
that meets the invariant, any number of steps, over any moves of the host, completes. -/
def Obligations.NoRunFromTheInvariantStops : Prop :=
  ∀ (k : Nat) (s : State), s.Inv → ∃ t : State, run k s = .next t ∧ t.Inv

/-- R105: a run of requests is answered one response per request, and its observation grows by exactly those. -/
def Obligations.RunIsObservedAsOneResponsePerRequest : Prop :=
  ∀ (ws : List ReqWord) (rest : List HostInput) (s : State), s.Inv →
    s.inputs = ws.map HostInput.request ++ rest →
    ∃ (t : State) (responses : List Response), run ws.length s = .next t ∧ t.inputs = rest ∧
      responses.length = ws.length ∧ t.events = s.events ++ responses.map Event.answered ∧
      t.observation = s.observation ++ responses

/-! ### Several engines, and the assembler -/

/-- 60_exceptions.md R91: a step of one engine is that engine's own step and leaves every other engine as it was; every
engine of a platform starts in reset state, INSTANCE_COUNT of them. -/
def Obligations.EnginesShareNothing : Prop :=
  (∀ (p q : Platform) (k : Fin p.engines.length), p.stepEngine k = .next q →
    q.engines.length = p.engines.length ∧
    (∃ t : State, step p.engines[k] = .next t ∧ q.engines[k.val]? = some t) ∧
    ∀ j : Nat, j ≠ k.val → q.engines[j]? = p.engines[j]?) ∧
  (∀ c : Config.Integration, (Platform.reset c).engines.length = c.instanceCount ∧
    ∀ e ∈ (Platform.reset c).engines, e.seeded = false ∧ e.index = 312#9)

/-- 30_encoding.md R51: the mnemonics assemble to the words of their raw forms; an immediate in 0..2^64-1 is taken whole; a
negative or wider one is an assembly error, never wrapped. -/
def Obligations.AssemblerNeverWraps : Prop :=
  assemble .nop = assemble (.req 0b00#2 0) ∧
  assemble .next = assemble (.req 0b10#2 0) ∧
  (∀ imm : Int, assemble (.seed imm) = assemble (.req 0b01#2 imm)) ∧
  (∀ (op : BitVec 2) (v : Word), assemble (.req op (v.toNat : Int)) = .ok (op ++ v)) ∧
  (∀ (op : BitVec 2) (imm : Int), imm < 0 ∨ (2 : Int) ^ 64 ≤ imm →
    assemble (.req op imm) = .error .immediateOutOfRange)

/-- R52: a request word is listed as `0x` and 17 hex digits, which read back as the value `op * 2^64 + operand`. -/
def Obligations.ListingReadsBack : Prop :=
  ∀ w : ReqWord, (listing w).length = 19 ∧ (listing w).take 2 = ['0', 'x'] ∧
    readDigits hexDigit 16 0 ((listing w).drop 2) =
      some ((w.extractLsb' 64 2).toNat * 2 ^ 64 + (w.extractLsb' 0 64).toNat)
end

