-- ==== Sys2Proof/Laws/State.lean ====
section
/-! SUPPORT. One lemma per field per update of the state, each true by rfl, so that no later proof unfolds a record
update. -/

namespace Sys2Proof.Machine

variable (s : State)

@[simp] theorem setWords_words (ws : WordArray) : (s.setWords ws).words = ws := rfl
@[simp] theorem setWords_index (ws : WordArray) : (s.setWords ws).index = s.index := rfl
@[simp] theorem setWords_seeded (ws : WordArray) : (s.setWords ws).seeded = s.seeded := rfl
@[simp] theorem setWords_inputs (ws : WordArray) : (s.setWords ws).inputs = s.inputs := rfl
@[simp] theorem setWords_events (ws : WordArray) : (s.setWords ws).events = s.events := rfl
@[simp] theorem setWords_freeDraw (ws : WordArray) : (s.setWords ws).freeDraw = s.freeDraw := rfl

@[simp] theorem setIndex_words (v : BitVec 9) : (s.setIndex v).words = s.words := rfl
@[simp] theorem setIndex_index (v : BitVec 9) : (s.setIndex v).index = v := rfl
@[simp] theorem setIndex_seeded (v : BitVec 9) : (s.setIndex v).seeded = s.seeded := rfl
@[simp] theorem setIndex_inputs (v : BitVec 9) : (s.setIndex v).inputs = s.inputs := rfl
@[simp] theorem setIndex_events (v : BitVec 9) : (s.setIndex v).events = s.events := rfl
@[simp] theorem setIndex_freeDraw (v : BitVec 9) : (s.setIndex v).freeDraw = s.freeDraw := rfl

@[simp] theorem setSeeded_words (v : Bool) : (s.setSeeded v).words = s.words := rfl
@[simp] theorem setSeeded_index (v : Bool) : (s.setSeeded v).index = s.index := rfl
@[simp] theorem setSeeded_seeded (v : Bool) : (s.setSeeded v).seeded = v := rfl
@[simp] theorem setSeeded_inputs (v : Bool) : (s.setSeeded v).inputs = s.inputs := rfl
@[simp] theorem setSeeded_events (v : Bool) : (s.setSeeded v).events = s.events := rfl
@[simp] theorem setSeeded_freeDraw (v : Bool) : (s.setSeeded v).freeDraw = s.freeDraw := rfl

@[simp] theorem record_words (e : Event) : (s.record e).words = s.words := rfl
@[simp] theorem record_index (e : Event) : (s.record e).index = s.index := rfl
@[simp] theorem record_seeded (e : Event) : (s.record e).seeded = s.seeded := rfl
@[simp] theorem record_inputs (e : Event) : (s.record e).inputs = s.inputs := rfl
@[simp] theorem record_events (e : Event) : (s.record e).events = s.events ++ [e] := rfl
@[simp] theorem record_freeDraw (e : Event) : (s.record e).freeDraw = s.freeDraw := rfl

@[simp] theorem setInputs_words (r : List HostInput) : (s.setInputs r).words = s.words := rfl
@[simp] theorem setInputs_index (r : List HostInput) : (s.setInputs r).index = s.index := rfl
@[simp] theorem setInputs_seeded (r : List HostInput) : (s.setInputs r).seeded = s.seeded := rfl
@[simp] theorem setInputs_inputs (r : List HostInput) : (s.setInputs r).inputs = r := rfl
@[simp] theorem setInputs_events (r : List HostInput) : (s.setInputs r).events = s.events := rfl
@[simp] theorem setInputs_freeDraw (r : List HostInput) : (s.setInputs r).freeDraw = s.freeDraw := rfl

@[simp] theorem applyReset_words : (applyReset s).words = resetWords s.freeDraw.advance := rfl
@[simp] theorem applyReset_freeDraw : (applyReset s).freeDraw = s.freeDraw.advance := rfl
@[simp] theorem applyReset_index : (applyReset s).index = 312#9 := rfl
@[simp] theorem applyReset_seeded : (applyReset s).seeded = false := rfl
@[simp] theorem applyReset_inputs : (applyReset s).inputs = s.inputs := by simp only [applyReset]
@[simp] theorem applyReset_events : (applyReset s).events = s.events ++ [.reset] := by simp only [applyReset]

@[simp] theorem powerOn_words (d : FreeDraw) : (State.powerOn d).words = resetWords d := rfl
@[simp] theorem powerOn_freeDraw (d : FreeDraw) : (State.powerOn d).freeDraw = d := rfl
@[simp] theorem powerOn_index (d : FreeDraw) : (State.powerOn d).index = 312#9 := rfl
@[simp] theorem powerOn_seeded (d : FreeDraw) : (State.powerOn d).seeded = false := rfl
@[simp] theorem powerOn_inputs (d : FreeDraw) : (State.powerOn d).inputs = [] := rfl
@[simp] theorem powerOn_events (d : FreeDraw) : (State.powerOn d).events = [] := rfl

end Sys2Proof.Machine
end

