-- ==== Sys2Proof/Laws/Twist.lean ====
section
/-! SUPPORT. The whole-array functions by their equations (they are irreducible: rewrite with these lemmas), and what a
round of an in-place pass leaves alone. -/

namespace Sys2Proof.Machine

@[simp] theorem twist_snapshot_eq (ws : WordArray) : twist .snapshot ws = twistSnapshot ws := rfl

@[simp] theorem twist_sequential_eq (ws : WordArray) : twist .sequential ws = twistSequential ws := rfl

theorem wordAfter_eq (ws : WordArray) (i k : Nat) :
    wordAfter ws i k = ws[(i + k) % 312]'(Nat.mod_lt _ (by decide)) := rfl

theorem twistSequential_eq_pass (ws : WordArray) :
    twistSequential ws = twistPass 312 (Nat.le_refl _) ws := by
  unfold twistSequential; rfl

theorem twistWithScratch_eq_pass (old : WordArray) :
    twistWithScratch old = scratchPass (scratchOf old) 312 (Nat.le_refl _) old := by
  unfold twistWithScratch; rfl

theorem twistPass_zero (h : 0 ≤ Config.N) (ws : WordArray) : twistPass 0 h ws = ws := rfl

theorem twistPass_succ (n : Nat) (h : n + 1 ≤ Config.N) (ws : WordArray) :
    twistPass (n + 1) h ws =
      (twistPass n (Nat.le_of_succ_le h) ws).set n
        (twistWord ((twistPass n (Nat.le_of_succ_le h) ws)[n]'h)
          (wordAfter (twistPass n (Nat.le_of_succ_le h) ws) n 1)
          (wordAfter (twistPass n (Nat.le_of_succ_le h) ws) n Config.M)) h := by
  simp only [twistPass]

theorem scratchPass_zero (sc : Vector Word Config.M) (h : 0 ≤ Config.N) (ws : WordArray) :
    scratchPass sc 0 h ws = ws := rfl

theorem scratchPass_succ (sc : Vector Word Config.M) (n : Nat) (h : n + 1 ≤ Config.N) (ws : WordArray) :
    scratchPass sc (n + 1) h ws =
      (scratchPass sc n (Nat.le_of_succ_le h) ws).set n
        (twistWord ((scratchPass sc n (Nat.le_of_succ_le h) ws)[n]'h)
          (scratchSuccessor sc (scratchPass sc n (Nat.le_of_succ_le h) ws) n)
          (scratchMiddle sc (scratchPass sc n (Nat.le_of_succ_le h) ws) n)) h := by
  simp only [scratchPass]

/-- Round `n` of the sequential pass changes word `n` alone. -/
theorem twistPass_succ_getElem_ne (n : Nat) (h : n + 1 ≤ Config.N) (ws : WordArray) (i : Nat) (hi : i < Config.N)
    (hne : i ≠ n) : (twistPass (n + 1) h ws)[i]'hi = (twistPass n (Nat.le_of_succ_le h) ws)[i]'hi := by
  rw [twistPass_succ, Vector.getElem_set_ne]
  exact hne.symm

/-- Round `n` of the scratch pass changes word `n` alone. -/
theorem scratchPass_succ_getElem_ne (sc : Vector Word Config.M) (n : Nat) (h : n + 1 ≤ Config.N) (ws : WordArray)
    (i : Nat) (hi : i < Config.N) (hne : i ≠ n) :
    (scratchPass sc (n + 1) h ws)[i]'hi = (scratchPass sc n (Nat.le_of_succ_le h) ws)[i]'hi := by
  rw [scratchPass_succ, Vector.getElem_set_ne]
  exact hne.symm

/-- After `n` rounds of the sequential pass the words from `n` on are still the old ones. -/
theorem twistPass_getElem_of_ge (ws : WordArray) (i : Nat) (hi : i < Config.N) :
    ∀ (n : Nat) (h : n ≤ Config.N), n ≤ i → (twistPass n h ws)[i]'hi = ws[i]'hi
  | 0, _, _ => rfl
  | n + 1, h, hni => by
    rw [twistPass_succ_getElem_ne n h ws i hi (by omega)]
    exact twistPass_getElem_of_ge ws i hi n (Nat.le_of_succ_le h) (by omega)

/-- Once round `i` of the sequential pass is done, word `i` changes no more. -/
theorem twistPass_getElem_of_lt (ws : WordArray) (i : Nat) (hi : i < Config.N) :
    ∀ (n : Nat) (h : n ≤ Config.N), i < n → (twistPass n h ws)[i]'hi = (twistPass (i + 1) hi ws)[i]'hi
  | 0, _, hin => absurd hin (by omega)
  | n + 1, h, hin => by
    by_cases he : i = n
    · subst he; rfl
    · rw [twistPass_succ_getElem_ne n h ws i hi he]
      exact twistPass_getElem_of_lt ws i hi n (Nat.le_of_succ_le h) (by omega)

/-- After `n` rounds of the scratch pass the words from `n` on are still the old ones. -/
theorem scratchPass_getElem_of_ge (sc : Vector Word Config.M) (ws : WordArray) (i : Nat) (hi : i < Config.N) :
    ∀ (n : Nat) (h : n ≤ Config.N), n ≤ i → (scratchPass sc n h ws)[i]'hi = ws[i]'hi
  | 0, _, _ => rfl
  | n + 1, h, hni => by
    rw [scratchPass_succ_getElem_ne sc n h ws i hi (by omega)]
    exact scratchPass_getElem_of_ge sc ws i hi n (Nat.le_of_succ_le h) (by omega)

/-- Once round `i` of the scratch pass is done, word `i` changes no more. -/
theorem scratchPass_getElem_of_lt (sc : Vector Word Config.M) (ws : WordArray) (i : Nat) (hi : i < Config.N) :
    ∀ (n : Nat) (h : n ≤ Config.N), i < n → (scratchPass sc n h ws)[i]'hi = (scratchPass sc (i + 1) hi ws)[i]'hi
  | 0, _, hin => absurd hin (by omega)
  | n + 1, h, hin => by
    by_cases he : i = n
    · subst he; rfl
    · rw [scratchPass_succ_getElem_ne sc n h ws i hi he]
      exact scratchPass_getElem_of_lt sc ws i hi n (Nat.le_of_succ_le h) (by omega)

/-- The seeded array as a list. -/
theorem seedWords_toList (s : Word) : (seedWords s).toList = s :: seedTail 311 1 s := by
  simp [seedWords, Vector.toList]

end Sys2Proof.Machine
end

