-- ==== Sys2Proof/Laws/Ops.lean ====
section
/-! SUPPORT. One lemma per shared operation that says everything it can do; later proofs cite it instead of unfolding
the operation. -/

namespace Sys2Proof.Machine

theorem respond_eq_next (st : Status) (r : Word) (s : State) :
    respond st r s = .next (s.record (.answered ⟨st, r⟩)) := rfl

theorem raiseError_eq_next (e : Err) (s : State) :
    raiseError e s = .next (s.record (.answered ⟨e.status, 0#64⟩)) := rfl

/-- The cursor names a word exactly where it is below N. -/
theorem wordAtCursor_of_lt (ws : WordArray) (i : BitVec 9) (h : i.toNat < 312) :
    wordAtCursor ws i = some (ws[i.toNat]'h) :=
  Vector.getElem?_eq_getElem h

theorem wordAtCursor_of_ge (ws : WordArray) (i : BitVec 9) (h : 312 ≤ i.toNat) :
    wordAtCursor ws i = none :=
  Vector.getElem?_eq_none h

/-- All that `outputWord` can answer. -/
theorem outputWord_cases (s : State) :
    (∃ h : s.index.toNat < 312, outputWord s =
      .next ((s.setIndex (s.index + 1#9)).record (.answered ⟨.ok, temper (s.words[s.index.toNat]'h)⟩)))
    ∨ (312 ≤ s.index.toNat ∧ outputWord s = .fault .cursorOutOfRange) := by
  rcases Nat.lt_or_ge s.index.toNat 312 with h | h
  · exact .inl ⟨h, by simp only [outputWord, wordAtCursor_of_lt _ _ h, respond_eq_next]⟩
  · exact .inr ⟨h, by simp only [outputWord, wordAtCursor_of_ge _ _ h]⟩

theorem regenerateIfExhausted_of_eq (mode : Config.TwistMode) (s : State) (h : s.index = 312#9) :
    regenerateIfExhausted mode s = (s.setWords (twist mode s.words)).setIndex 0#9 := by
  simp only [regenerateIfExhausted, h, if_true]

theorem regenerateIfExhausted_of_ne (mode : Config.TwistMode) (s : State) (h : s.index ≠ 312#9) :
    regenerateIfExhausted mode s = s := by
  simp only [regenerateIfExhausted, h, if_false]

/-- Exactly the four things a NEXT can do (R71): the error, the draw that twists first, the plain draw, and the stop of
93 U6. -/
theorem nextIn_cases (mode : Config.TwistMode) (s : State) :
    (s.seeded = false ∧ nextIn mode s = .next (s.record (.answered ⟨.errUnseeded, 0#64⟩)))
    ∨ (s.seeded = true ∧ s.index = 312#9 ∧ nextIn mode s =
        .next (((s.setWords (twist mode s.words)).setIndex 1#9).record
          (.answered ⟨.ok, temper ((twist mode s.words)[0]'(by decide))⟩)))
    ∨ (s.seeded = true ∧ ∃ h : s.index.toNat < 312, nextIn mode s =
        .next ((s.setIndex (s.index + 1#9)).record (.answered ⟨.ok, temper (s.words[s.index.toNat]'h)⟩)))
    ∨ (s.seeded = true ∧ 312 < s.index.toNat ∧ nextIn mode s = .fault .cursorOutOfRange) := by
  cases hs : s.seeded with
  | false => exact .inl ⟨rfl, by simp only [nextIn, hs, Bool.false_eq_true, if_false, raiseError_eq_next, Err.status]⟩
  | true =>
    by_cases hi : s.index = 312#9
    · refine .inr (.inl ⟨rfl, hi, ?_⟩)
      simp only [nextIn, hs, if_true, regenerateIfExhausted_of_eq mode s hi]
      rfl
    · have hne : s.index.toNat ≠ 312 := fun h => hi (BitVec.eq_of_toNat_eq h)
      have hn : nextIn mode s = outputWord s := by
        simp only [nextIn, hs, if_true, regenerateIfExhausted_of_ne mode s hi]
      rcases outputWord_cases s with ⟨h, he⟩ | ⟨h, he⟩
      · exact .inr (.inr (.inl ⟨rfl, h, hn.trans he⟩))
      · exact .inr (.inr (.inr ⟨rfl, by omega, hn.trans he⟩))

theorem execSeed_eq_next (v : Word) (s : State) :
    execSeed v s = .next ((((s.setWords (seedWords v)).setIndex 312#9).setSeeded true).record
      (.answered ⟨.ok, 0#64⟩)) := rfl

end Sys2Proof.Machine
end

