-- ==== Sys2Proof/Laws/PerInstr.lean ====
section
/-! SUPPORT. Statements about the instruction as syntax, one lemma per constructor. -/

namespace Sys2Proof.Laws.OpField

/-- The op field of the opcode map (30_encoding.md R44). -/
def opOf : Instr → BitVec 2
  | .nop _ => 0b00#2
  | .seed _ => 0b01#2
  | .next _ => 0b10#2
  | .reserved _ => 0b11#2

/-- An encoded instruction carries its row's op in bits 65:64 (R42, R44). -/
def Statement (i : Instr) : Prop :=
  opField (encode i) = opOf i

theorem opField_append (op : BitVec 2) (operand : Word) : opField (op ++ operand : ReqWord) = op := by
  apply BitVec.eq_of_getLsbD_eq
  intro k hk
  simp only [opField, BitVec.getLsbD_extractLsb', BitVec.getLsbD_append, hk]
  simp

theorem nop (operand : Word) : Statement (.nop operand) := opField_append _ _
theorem seed (s : Word) : Statement (.seed s) := opField_append _ _
theorem next (operand : Word) : Statement (.next operand) := opField_append _ _
theorem reserved (operand : Word) : Statement (.reserved operand) := opField_append _ _

end Sys2Proof.Laws.OpField
end

