-- ==== Sys2Proof/Laws/Platform.lean ====
section
/-! SUPPORT. What a platform reads of its integration parameters: INSTANCE_COUNT alone. -/

namespace Sys2Proof.Machine

/-- 00_scope.md R14: BASE_ADDRESS, the register map, HOST_BYTE_ORDER and the latencies are read by nothing. -/
theorem platform_reset_reads_count_alone (c d : Config.Integration) (h : c.instanceCount = d.instanceCount) :
    Platform.reset c = Platform.reset d := by
  simp only [Platform.reset, h]

end Sys2Proof.Machine
end

