-- ==== Sys2Proof/Laws/Step.lean ====
section
/-! SUPPORT. What one step can do, said once: every proof about `step` starts from `step_cases`. -/

namespace Sys2Proof.Machine

/-- One step is an idle step, a reset, an abandoned request, or `exec` of the decoded request. -/
theorem step_cases (s : State) :
    (s.inputs = [] ∧ step s = .next s)
    ∨ (∃ rest, s.inputs = .reset :: rest ∧ step s = .next (applyReset (s.setInputs rest)))
    ∨ (∃ w rest, s.inputs = .resetDuring w :: rest ∧ step s = .next (applyReset (s.setInputs rest)))
    ∨ (∃ w rest, s.inputs = .request w :: rest ∧ step s = exec (decode w) (s.setInputs rest)) := by
  match h : s.inputs with
  | [] => exact .inl ⟨rfl, by simp only [step, h]⟩
  | .reset :: rest => exact .inr (.inl ⟨rest, rfl, by simp only [step, h]⟩)
  | .resetDuring w :: rest => exact .inr (.inr (.inl ⟨w, rest, rfl, by simp only [step, h, abandonByReset]⟩))
  | .request w :: rest => exact .inr (.inr (.inr ⟨w, rest, rfl, by simp only [step, h]⟩))

theorem run_zero (s : State) : run 0 s = .next s := rfl

theorem run_succ_of_next {s t : State} (h : step s = .next t) (k : Nat) : run (k + 1) s = run k t := by
  simp only [run, h]

theorem drawMany_succ_of_next {mode : Config.TwistMode} {s t : State} (h : nextIn mode s = .next t) (k : Nat) :
    drawMany mode (k + 1) s = drawMany mode k t := by
  simp only [drawMany, h]

end Sys2Proof.Machine
end

