-- ==== Sys2Proof/Tests/Slice0.lean ====
section
/-! SUPPORT. The model's own tests. Expected values come from spec/: 95_test_vectors.md, the worked examples of the rules,
and words written out from 30_encoding.md R42 to R52; each theorem names its source. The witnesses at the end show, for
every statement with hypotheses, a state and operands that meet them together, at the boundaries of their ranges. -/

namespace Sys2Proof.Tests

open Sys2Proof Sys2Proof.Machine

/-- A small state: every word 7, nothing answered yet. -/
def plain (seeded : Bool) (index : BitVec 9) (inputs : List HostInput) : State where
  words := Vector.replicate 312 7#64
  index := index
  seeded := seeded
  inputs := inputs
  events := []
  freeDraw := { stream := 0, taken := 0 }

/-- The engine after `SEED v` (R54). -/
def afterSeed (v : Word) (inputs : List HostInput) : State :=
  { plain true 312#9 inputs with words := seedWords v }

/-- The history a meaning leaves; nothing where it stops. -/
def eventsOf : Outcome → List Event
  | .next t => t.events
  | .fault _ => []
  | .refused _ => []

/-- The cursor and the seeded flag after a meaning. -/
def cursorOf : Outcome → Option (BitVec 9 × Bool)
  | .next t => some (t.index, t.seeded)
  | .fault _ => none
  | .refused _ => none

/-- Whether a meaning stops by the fault `f`. -/
def faultsWith (f : Fault) : Outcome → Bool
  | .fault g => decide (f = g)
  | .next _ => false
  | .refused _ => false

/-! ### Well-formedness: each check refuses an ill-formed term (R51) -/

theorem test_wf_refuses_wide_immediate : AsmLine.wf (.seed 18446744073709551616) = false := by decide
theorem test_wf_refuses_negative_immediate : AsmLine.wf (.seed (-1)) = false := by decide
theorem test_wf_refuses_wide_raw_operand : AsmLine.wf (.req 0b11#2 18446744073709551616) = false := by decide
theorem test_wf_refuses_negative_raw_operand : AsmLine.wf (.req 0b00#2 (-1)) = false := by decide
theorem test_wf_accepts_widest_immediate : AsmLine.wf (.seed 18446744073709551615) = true := by decide

/-! ### Decoding and encoding: words written out from the format of R42 -/

/-- R52: NOP is the all-zero word. -/
theorem test_decode_nop : decode 0x00000000000000000#66 = .nop 0#64 := by decide
/-- R52, P2: `SEED 5489` is 0x10000000000001571. -/
theorem test_decode_seed : decode 0x10000000000001571#66 = .seed 5489#64 := by decide
/-- P4: `SEED 0xFFFFFFFFFFFFFFFF`, the widest operand. -/
theorem test_decode_seed_all_ones : decode 0x1FFFFFFFFFFFFFFFF#66 = .seed 0xFFFFFFFFFFFFFFFF#64 := by decide
/-- 95 §2.8: `NEXT` with operand 0xFFFF. -/
theorem test_decode_next : decode 0x2000000000000FFFF#66 = .next 0xFFFF#64 := by decide
/-- 95 §2.8: `.req 0b11, 0x1234`. -/
theorem test_decode_reserved : decode 0x30000000000001234#66 = .reserved 0x1234#64 := by decide
/-- P4, R52: the words of the four operations. -/
theorem test_encode_words :
    encode (.nop 0#64) = 0x00000000000000000#66 ∧ encode (.seed 5489#64) = 0x10000000000001571#66 ∧
    encode (.next 0#64) = 0x20000000000000000#66 ∧ encode (.reserved 0x1234#64) = 0x30000000000001234#66 := by decide
/-- R49: 67 bits are no request; the widest request word is one. -/
theorem test_decode_refuses_67_bits : decodeBits 0x40000000000000000 = .error .widerThanRequest := by decide
theorem test_decode_table_word : decodeTableWord 72 0x30000000000000000 = some (.reserved 0#64) := by decide
/-- R43, R47: {OK, 5}, {ERR_UNSEEDED, 0}, {ERR_ILLEGAL_OP, 0}. -/
theorem test_response_words :
    Response.encode ⟨.ok, 5#64⟩ = 0x00000000000000005#66 ∧
    Response.encode ⟨.errUnseeded, 0#64⟩ = 0x10000000000000000#66 ∧
    Response.encode ⟨.errIllegalOp, 0#64⟩ = 0x20000000000000000#66 := by decide
/-- 93 U7: a host refuses the status 11. -/
theorem test_response_status_11 : decodeResponse 0x30000000000000000#66 = none := by decide

/-! ### NOP and the reserved request (R75, R76) -/

theorem test_nop_responds_ok :
    eventsOf (exec (.nop 0x1234#64) (plain false 312#9 [])) = [.answered ⟨.ok, 0#64⟩] := by decide
/-- P4 row 2. -/
theorem test_reserved_is_illegal :
    eventsOf (exec (.reserved 0x1234#64) (plain true 312#9 [])) = [.answered ⟨.errIllegalOp, 0#64⟩] := by decide
/-- 95 §2.8: after SEED, index 312, the reserved op leaves the cursor (no twist). -/
theorem test_reserved_leaves_cursor :
    cursorOf (exec (.reserved 0#64) (plain true 312#9 [])) = some (312#9, true) := by decide

/-! ### SEED (95 §2.1) -/

theorem test_seed_state : cursorOf (exec (.seed 0#64) (plain false 5#9 [])) = some (312#9, true) := by decide
/-- Seed 0; and seed 2^64-1, where `p >> 62 = 3` and the multiply wraps. -/
theorem test_seed_words :
    (seedWords 0#64)[1] = 0x0000000000000001#64 ∧ (seedWords 0#64)[3] = 0xC0B18CCF4E252D19#64 ∧
    (seedWords 0#64)[156] = 0xF56A6856E342C891#64 ∧ (seedWords 0#64)[311] = 0xCDE6D1BB67E51A2A#64 ∧
    (seedWords 0xFFFFFFFFFFFFFFFF#64)[0] = 0xFFFFFFFFFFFFFFFF#64 ∧
    (seedWords 0xFFFFFFFFFFFFFFFF#64)[1] = 0x9EB82F4ACDAA034D#64 ∧
    (seedWords 0xFFFFFFFFFFFFFFFF#64)[155] = 0xB5A82647E3DB1A5C#64 := by decide +kernel

/-! ### The twist (95 §2.2, §2.3) -/

theorem test_mix :
    mix 0x1#64 = 0xB5026F5AA96619E9#64 ∧ mix 0x2#64 = 0x1#64 ∧ mix 0xFFFFFFFFFFFFFFFF#64 = 0xCAFD90A55699E616#64 ∧
    mix 0x8000000000000001#64 = 0xF5026F5AA96619E9#64 := by decide
theorem test_combine_wraps_to_word_0 :
    combine ((seedWords 0#64)[311]) ((seedWords 0#64)[0]) = 0xCDE6D1BB00000000#64 := by decide +kernel
theorem test_twist_snapshot_seed_0 :
    (twistSnapshot (seedWords 0#64))[0] = 0x4068070C4A24D178#64 ∧
    (twistSnapshot (seedWords 0#64))[156] = 0xCFB75B71FDFDC1CA#64 ∧
    (twistSnapshot (seedWords 0#64))[311] = 0x68BD2626AC7F28E9#64 := by decide +kernel
theorem test_twist_sequential_seed_0 :
    (twistPass 157 (by decide) (seedWords 0#64))[156] = 0x8FDF5C7DB7D910B2#64 := by decide +kernel
/-- Word 311 of the sequential twist reads the new words 0 and 155. -/
theorem test_twist_sequential_last_word :
    twistWord ((seedWords 0#64)[311]) 0x4068070C4A24D178#64 0x7FC3999C7F22678B#64 = 0x1930F141DA300F37#64 := by
  decide +kernel

/-! ### Tempering (R65's table, 95 §2.7) -/

theorem test_temper :
    temper 0x1#64 = 0x0040002000020801#64 ∧ temper 0x8000000000000000#64 = 0x8000000400100000#64 ∧
    temper 0xFFFFFFFFFFFFFFFF#64 = 0x7BFEEEEFEFA1D577#64 ∧ temper 0x0123456789ABCDEF#64 = 0x2254DA7001198660#64 := by decide
theorem test_temper_stages :
    temperStage1 0x0123456789ABCDEF#64 = 0x0123456788BBCCFB#64 ∧
    temperStage2 0x0123456788BBCCFB#64 = 0x01E55410011DCCFB#64 ∧
    temperStage3 0x01E55410011DCCFB#64 = 0x2254DA70011DCCFB#64 := by decide

/-! ### NEXT (95 §2.5, §2.8) -/

/-- P1 row 3: the first draw after `SEED 0` twists first; and 95 §2.5: seed 2^64-1, output #0 (C2's reading of
UPPER_MASK). -/
theorem test_next_after_seed :
    eventsOf (exec (.next 0#64) (afterSeed 0#64 [])) = [.answered ⟨.ok, 0x28E837C5CB41DC3E#64⟩] ∧
    cursorOf (exec (.next 0#64) (afterSeed 0#64 [])) = some (1#9, true) ∧
    eventsOf (exec (.next 0#64) (afterSeed 0xFFFFFFFFFFFFFFFF#64 [])) = [.answered ⟨.ok, 0x06A24A7A23FBC864#64⟩] := by
  decide +kernel
/-- P1 row 1: NEXT before SEED. -/
theorem test_next_unseeded :
    eventsOf (exec (.next 0xFFFF#64) (plain false 312#9 [])) = [.answered ⟨.errUnseeded, 0#64⟩] := by decide
/-- 95 §2.5 under SNAPSHOT: output #156 of seed 5489, and #312 of seed 1, the first of the second array. -/
theorem test_outputs_snapshot :
    output .snapshot 5489#64 156 = 0x9408B615DCA1DBCE#64 ∧ output .snapshot 1#64 312 = 0x1CC1D38A77C97662#64 := by
  decide +kernel

/-! ### A step -/

/-- P1 rows 1 and 2, from reset: the unspecified words do not matter. -/
theorem test_first_step_from_reset_next :
    eventsOf (step (State.reset.withFetchWord 72 0x20000000000000000)) = [.answered ⟨.errUnseeded, 0#64⟩] := by
  decide +kernel
theorem test_first_step_from_reset_seed :
    cursorOf (step (State.reset.withFetchWord 72 0x10000000000000000)) = some (312#9, true) := by decide +kernel
/-- R95: the abandoned SEED is not answered and has no effect. -/
theorem test_reset_during_seed :
    eventsOf (step (plain false 312#9 [.resetDuring 0x10000000000000000#66])) = [.reset] ∧
    cursorOf (step (plain true 9#9 [.resetDuring 0x10000000000000000#66])) = some (312#9, false) := by decide
/-- R105: the observation starts anew at a reset. -/
theorem test_observation :
    State.observation { plain true 1#9 [] with events := [.answered ⟨.ok, 1#64⟩, .reset, .answered ⟨.errUnseeded, 0#64⟩] }
      = [⟨.errUnseeded, 0#64⟩] := by decide

/-! ### The assembler (R51, R52) -/

/-- `SEED 5489 ; x` -/
theorem test_assemble_text :
    (assembleText ['S', 'E', 'E', 'D', ' ', '5', '4', '8', '9', ' ', ';', ' ', 'x']).toOption
      = some (some 0x10000000000001571#66) := by decide
/-- `.req 0b11, 0x1234` -/
theorem test_assemble_raw :
    (assembleText ['.', 'r', 'e', 'q', ' ', '0', 'b', '1', '1', ',', ' ', '0', 'x', '1', '2', '3', '4']).toOption
      = some (some 0x30000000000001234#66) := by decide
/-- `SEED -1` is an assembly error; `0x` takes at most 16 digits. -/
theorem test_assemble_refuses :
    (assembleText ['S', 'E', 'E', 'D', ' ', '-', '1']).toOption = none ∧
    (assembleText ['S', 'E', 'E', 'D', ' ', '0', 'x']).toOption = none := by decide
/-- Log entry 13, the model's choice: `SEED -0` is `SEED 0`. -/
theorem test_assemble_minus_zero :
    (assembleText ['S', 'E', 'E', 'D', ' ', '-', '0']).toOption = some (some 0x10000000000000000#66) := by decide
/-- R52: the listing of `SEED 5489`. -/
theorem test_listing :
    listing 0x10000000000001571#66 =
      ['0', 'x', '1', '0', '0', '0', '0', '0', '0', '0', '0', '0', '0', '0', '0', '1', '5', '7', '1'] := by decide

/-! ### Witnesses: the hypotheses of the statements can be met, at the boundaries of their ranges -/

/-- DecodeSelectsByOpAlone, each clause, with the widest operand. -/
theorem witness_DecodeSelectsByOpAlone :
    (0x0FFFFFFFFFFFFFFFF#66).extractLsb' 64 2 = 0b00#2 ∧ (0x1FFFFFFFFFFFFFFFF#66).extractLsb' 64 2 = 0b01#2 ∧
    (0x2FFFFFFFFFFFFFFFF#66).extractLsb' 64 2 = 0b10#2 ∧ (0x3FFFFFFFFFFFFFFFF#66).extractLsb' 64 2 = 0b11#2 := by decide
/-- OnlySixtySixBitsDecode, the least number that is no request. -/
theorem witness_OnlySixtySixBitsDecode : 2 ^ 66 ≤ 0x40000000000000000 := by decide
/-- ResponseWordsCarryStatusAndResult, one response of each status. -/
theorem witness_ResponseWordsCarryStatusAndResult :
    (Response.mk .ok 1#64).status = .ok ∧ (Response.mk .errUnseeded 0#64).status = .errUnseeded ∧
    (Response.mk .errIllegalOp 0#64).status = .errIllegalOp := by decide
/-- ReservedRaisesIllegalOpAlone, third clause. -/
theorem witness_ReservedRaisesIllegalOpAlone : ∃ t : State, exec (.reserved 1#64) (plain false 312#9 []) = .next t ∧
    t.events = (plain false 312#9 []).events ++ [.answered ⟨.errIllegalOp, 0#64⟩] := ⟨_, rfl, rfl⟩
/-- SeedInitialisesTheWholeState, the recurrence's clause at its first and last word. -/
theorem witness_SeedInitialisesTheWholeState : 0 + 1 < 312 ∧ 310 + 1 < 312 := by decide
/-- NextReturnsTheNextTemperedWord and SequentialModeDrawsTheSameWay: Unseeded; cursor at N; cursor at 0 and at N - 1. -/
theorem witness_NextReturnsTheNextTemperedWord :
    (plain false 312#9 []).seeded = false ∧
    ((plain true 312#9 []).seeded = true ∧ (plain true 312#9 []).index = 312#9) ∧
    ((plain true 0#9 []).seeded = true ∧ (plain true 0#9 []).index.toNat < 312) ∧
    ((plain true 311#9 []).seeded = true ∧ (plain true 311#9 []).index.toNat < 312) := by decide
/-- SequentialModeDrawsTheSameWay, third clause. -/
theorem witness_SequentialModeDrawsTheSameWay :
    (plain true 311#9 []).seeded = true ∧ (plain true 311#9 []).index ≠ 312#9 := by decide
/-- UnseededErrorIsExactlyNextBeforeSeed, second and third clause; ErrorsChangeNoState. -/
theorem witness_UnseededErrorIsExactlyNextBeforeSeed : (plain false 312#9 []).seeded = false ∧
    ∃ t : State, exec (.next 1#64) (plain false 312#9 []) = .next t ∧
      t.events = (plain false 312#9 []).events ++ [.answered ⟨.errUnseeded, 0#64⟩] ∧
      (Response.mk .errUnseeded 0#64).status ≠ .ok := ⟨rfl, _, rfl, rfl, by decide⟩
/-- ResultIsTheTemperedWordOrZero, a NEXT at the last word of the array. -/
theorem witness_ResultIsTheTemperedWordOrZero : ∃ (t : State) (r : Response),
    exec (.next 0#64) (plain true 311#9 []) = .next t ∧ t.events = (plain true 311#9 []).events ++ [.answered r] ∧
    r.status = .ok := ⟨_, _, rfl, rfl, rfl⟩
/-- OnlyAnUnreachableCursorStops: the least and the greatest cursor that stops, and the greatest that does not. -/
theorem witness_OnlyAnUnreachableCursorStops :
    faultsWith .cursorOutOfRange (exec (.next 0#64) (plain true 313#9 [])) = true ∧
    faultsWith .cursorOutOfRange (exec (.next 0#64) (plain true 511#9 [])) = true ∧
    cursorOf (exec (.next 0#64) (plain true 311#9 [])) = some (312#9, true) := by decide
/-- TwistWordCombinesAndMixes: bits at both ends and at the seam of the masks; a word of each parity. -/
theorem witness_TwistWordCombinesAndMixes :
    (0 < 64 ∧ 30 < 64 ∧ 31 < 64 ∧ 63 < 64) ∧ (2#64).getLsbD 0 = false ∧ (3#64).getLsbD 0 = true := by decide
/-- SnapshotTwistReadsTheOldArray, SequentialTwistReadsReplacedWords, ModesAgreeOnTheFirst156: first and last index. -/
theorem witness_TwistIndices : (0 < 312 ∧ 311 < 312) ∧ (0 < 156 ∧ 155 < 156) := by decide
/-- TemperIsItsFourStages: the intermediate words of R65's table. -/
theorem witness_TemperIsItsFourStages :
    0x0123456788BBCCFB#64 = 0x0123456789ABCDEF#64 ^^^ ((0x0123456789ABCDEF#64 >>> 29) &&& 0x5555555555555555#64) ∧
    0x01E55410011DCCFB#64 = 0x0123456788BBCCFB#64 ^^^ ((0x0123456788BBCCFB#64 <<< 17) &&& 0x71D67FFFEDA60000#64) ∧
    0x2254DA70011DCCFB#64 = 0x01E55410011DCCFB#64 ^^^ ((0x01E55410011DCCFB#64 <<< 37) &&& 0xFFF7EEE000000000#64) := by
  decide
/-- TemperIsABijection: the least and the greatest shift. -/
theorem witness_TemperIsABijection : (1 ≤ 1 ∧ 1 ≤ 63) ∧ (1 ≤ 63 ∧ 63 ≤ 63) := by decide
/-- SeededRunReturnsTheOutputs: `SEED 0` and two NEXTs with different operands, before a reset. -/
theorem witness_SeededRunReturnsTheOutputs :
    (plain false 312#9 [.request (0b01#2 ++ 0#64), .request (0b10#2 ++ 0#64), .request (0b10#2 ++ 9#64), .reset]).inputs =
      .request (0b01#2 ++ 0#64) :: ([0#64, 9#64].map (fun o => HostInput.request (0b10#2 ++ o)) ++ [.reset]) := by decide
/-- StepRunsTheDecodedRequest, EveryRequestIsAnsweredOnce. -/
theorem witness_EveryRequestIsAnsweredOnce :
    (plain false 312#9 [.request 0#66]).inputs = .request 0#66 :: [] ∧
    ∃ t : State, step (plain false 312#9 [.request 0#66]) = .next t := ⟨rfl, _, rfl⟩
/-- PlacedWordRunsNext: the widest request word in 9 bytes. -/
theorem witness_PlacedWordRunsNext : 0x3FFFFFFFFFFFFFFFF % 2 ^ 72 < 2 ^ 66 := by decide
/-- IdleStatePersists. -/
theorem witness_IdleStatePersists : (plain true 4#9 []).inputs = [] := by decide
/-- ResponseDependsOnEngineStateAlone: two states that differ in history and coming moves alone. -/
theorem witness_ResponseDependsOnEngineStateAlone :
    (plain true 311#9 []).words = (plain true 311#9 [.reset]).words ∧
    (plain true 311#9 []).index = (plain true 311#9 [.reset]).index ∧
    (plain true 311#9 []).seeded = (plain true 311#9 [.reset]).seeded ∧
    ∃ t : State, exec (.next 0#64) (plain true 311#9 []) = .next t := ⟨rfl, rfl, rfl, _, rfl⟩
/-- OnlySeedAndResetWriteSeeded: a SEED and a reset that do change the flag. -/
theorem witness_OnlySeedAndResetWriteSeeded :
    cursorOf (step (plain false 312#9 [.request (0b01#2 ++ 3#64)])) = some (312#9, true) ∧
    cursorOf (step (plain true 7#9 [.reset])) = some (312#9, false) := by decide
/-- RequestsWriteWordsAndIndexOnlyWhereStated: a SEED changes both; a draw moves the cursor. -/
theorem witness_RequestsWriteWordsAndIndexOnlyWhereStated :
    (∃ t : State, exec (.seed 3#64) (plain false 0#9 []) = .next t ∧ t.words[0] ≠ (plain false 0#9 []).words[0] ∧
      t.index ≠ (plain false 0#9 []).index) ∧
    cursorOf (exec (.next 0#64) (plain true 0#9 [])) = some (1#9, true) :=
  ⟨⟨_, rfl, by decide +kernel, by decide⟩, by decide⟩
/-- ResetInputPutsEngineInResetState, ResetAbandonsTheOutstandingRequest. -/
theorem witness_ResetInputs :
    (plain true 9#9 [.reset]).inputs = .reset :: [] ∧
    (plain true 9#9 [.resetDuring 0#66]).inputs = .resetDuring 0#66 :: [] := by decide
/-- UnspecifiedWordsAreNeverObserved: two Unseeded engines with different words, run through `SEED 3` and a NEXT. -/
theorem witness_UnspecifiedWordsAreNeverObserved :
    State.AgreeUnlessUnseeded (plain false 312#9 [.request (0b01#2 ++ 3#64), .request (0b10#2 ++ 0#64)])
      { plain false 312#9 [.request (0b01#2 ++ 3#64), .request (0b10#2 ++ 0#64)] with words := Vector.replicate 312 8#64 } ∧
    ∃ s' : State, run 2 (plain false 312#9 [.request (0b01#2 ++ 3#64), .request (0b10#2 ++ 0#64)]) = .next s' :=
  ⟨⟨rfl, rfl, rfl, rfl, rfl, fun h => nomatch h⟩, _, rfl⟩
/-- CursorInvariantsHoldAndAreKept, NoRunFromTheInvariantStops: a Seeded state at each end of the cursor's range, with a
step, and a NEXT. -/
theorem witness_CursorInvariantsHoldAndAreKept :
    (plain true 0#9 [.request (0b10#2 ++ 0#64)]).Inv ∧ (plain true 312#9 []).Inv ∧ (plain false 312#9 []).Inv ∧
    (∃ t : State, step (plain true 0#9 [.request (0b10#2 ++ 0#64)]) = .next t) ∧
    ∃ t : State, exec (.next 0#64) (plain true 312#9 []) = .next t :=
  ⟨by decide, by decide, by decide, ⟨_, rfl⟩, _, rfl⟩
/-- StepKeepsErrorResultsZero: a history with an error in it, and a step that adds another. -/
theorem witness_StepKeepsErrorResultsZero :
    State.EventsSound { plain false 312#9 [.request (0b11#2 ++ 5#64)] with events := [.answered ⟨.errUnseeded, 0#64⟩] } ∧
    ∃ t : State, step { plain false 312#9 [.request (0b11#2 ++ 5#64)] with
      events := [.answered ⟨.errUnseeded, 0#64⟩] } = .next t := ⟨by decide, _, rfl⟩
/-- RunIsObservedAsOneResponsePerRequest: an error, a SEED and a NOP. -/
theorem witness_RunIsObservedAsOneResponsePerRequest :
    (plain false 312#9 [.request (0b10#2 ++ 0#64), .request (0b01#2 ++ 1#64), .request 0#66, .reset]).Inv ∧
    (plain false 312#9 [.request (0b10#2 ++ 0#64), .request (0b01#2 ++ 1#64), .request 0#66, .reset]).inputs =
      [0b10#2 ++ 0#64, 0b01#2 ++ 1#64, 0#66].map HostInput.request ++ [.reset] := by decide
/-- EnginesShareNothing: two engines, the second makes a step. -/
theorem witness_EnginesShareNothing :
    ∃ q : Platform, Platform.stepEngine { engines := [plain false 312#9 [], plain true 311#9 [.request (0b10#2 ++ 0#64)]] }
      ⟨1, by decide⟩ = .next q ∧ 0 ≠ 1 := ⟨_, rfl, by decide⟩
/-- AssemblerNeverWraps: the least value over the range and the greatest below it. -/
theorem witness_AssemblerNeverWraps : ((-1 : Int) < 0) ∧ ((2 : Int) ^ 64 ≤ 18446744073709551616) := by decide

end Sys2Proof.Tests
end

section
/-! SUPPORT. A draw by its two tests, `seeded` and the cursor at N (43_next.md R71), in both twist modes. -/

namespace Sys2Proof.Machine

/-- The `seeded` test comes first: where it fails, nothing but the history moves. -/
theorem nextIn_of_unseeded (mode : Config.TwistMode) (s : State) (hs : s.seeded = false) :
    nextIn mode s = .next (s.record (.answered ⟨.errUnseeded, 0#64⟩)) := by
  simp only [nextIn, hs, Bool.false_eq_true, if_false, raiseError_eq_next, Err.status]

theorem nextIn_of_seeded (mode : Config.TwistMode) (s : State) (hs : s.seeded = true) :
    nextIn mode s = outputWord (regenerateIfExhausted mode s) := by
  simp only [nextIn, hs, if_true]

theorem outputWord_of_lt (s : State) (h : s.index.toNat < 312) :
    outputWord s =
      .next ((s.setIndex (s.index + 1#9)).record (.answered ⟨.ok, temper (s.words[s.index.toNat]'h)⟩)) := by
  simp only [outputWord, wordAtCursor_of_lt _ _ h, respond_eq_next]

/-- With the cursor at N a Seeded draw twists, then consumes the new word 0. -/
theorem nextIn_of_exhausted (mode : Config.TwistMode) (s : State) (hs : s.seeded = true) (hi : s.index = 312#9) :
    nextIn mode s = .next (((s.setWords (twist mode s.words)).setIndex 1#9).record
      (.answered ⟨.ok, temper ((twist mode s.words)[0]'(by decide))⟩)) := by
  rw [nextIn_of_seeded mode s hs, regenerateIfExhausted_of_eq mode s hi]
  exact outputWord_of_lt ((s.setWords (twist mode s.words)).setIndex 0#9) (by decide : (0#9).toNat < 312)

/-- Away from N no twist runs, so a Seeded draw does not read the twist mode. -/
theorem nextIn_mode_irrelevant_of_not_exhausted (m₁ m₂ : Config.TwistMode) (s : State) (hs : s.seeded = true)
    (hi : s.index ≠ 312#9) : nextIn m₁ s = nextIn m₂ s := by
  rw [nextIn_of_seeded m₁ s hs, nextIn_of_seeded m₂ s hs, regenerateIfExhausted_of_ne m₁ s hi,
    regenerateIfExhausted_of_ne m₂ s hi]

end Sys2Proof.Machine
end

section
/-! The obligation of 00_scope.md: the twist mode a draw runs under (R12). -/

namespace Sys2Proof.Proofs
open Sys2Proof.Machine

/-- Settles O13: the draw's lemma for each case of R71, taken at mode SEQUENTIAL. -/
theorem sequentialModeDrawsTheSameWay : Obligations.SequentialModeDrawsTheSameWay := by
  intro s
  refine ⟨fun hs => ?unseeded, fun hs hi => ?exhausted, fun hs hi => ?plain⟩
  case unseeded => exact nextIn_of_unseeded .sequential s hs
  case exhausted => exact nextIn_of_exhausted .sequential s hs hi
  case plain => exact nextIn_mode_irrelevant_of_not_exhausted .sequential .snapshot s hs hi

end Sys2Proof.Proofs
end

section
/-! SUPPORT. Each request by the shared operation it is (43_next.md R71, R75, R76, 40_seed.md R54), the four things that
an answered request may have done, and a step by the host's next move (20_memory.md R37). -/

namespace Sys2Proof.Machine

@[simp] theorem exec_nop (operand : Word) (s : State) :
    exec (.nop operand) s = .next (s.record (.answered ⟨.ok, 0#64⟩)) := rfl

@[simp] theorem exec_reserved (operand : Word) (s : State) :
    exec (.reserved operand) s = .next (s.record (.answered ⟨.errIllegalOp, 0#64⟩)) := rfl

@[simp] theorem exec_seed (v : Word) (s : State) :
    exec (.seed v) s = .next ((((s.setWords (seedWords v)).setIndex 312#9).setSeeded true).record
      (.answered ⟨.ok, 0#64⟩)) := rfl

@[simp] theorem exec_next (operand : Word) (s : State) : exec (.next operand) s = nextIn twistMode s := rfl

/-- With the cursor below N a Seeded draw consumes the word at the cursor. -/
theorem nextIn_of_lt (mode : Config.TwistMode) (s : State) (hs : s.seeded = true) (hi : s.index.toNat < 312) :
    nextIn mode s =
      .next ((s.setIndex (s.index + 1#9)).record (.answered ⟨.ok, temper (s.words[s.index.toNat]'hi)⟩)) := by
  have hne : s.index ≠ 312#9 := fun h => by simp [h] at hi
  rw [nextIn_of_seeded mode s hs, regenerateIfExhausted_of_ne mode s hne, outputWord_of_lt s hi]

/-- The inversion of `exec`: an answered request moved the history alone (and was then no NEXT in Seeded), or was a SEED,
or a draw that twisted, or a plain draw. -/
theorem exec_eq_next_cases {i : Instr} {s t : State} (h : exec i s = .next t) :
    ((∀ operand, i = .next operand → s.seeded = false) ∧
      ∃ r : Response, r.result = 0#64 ∧ t = s.record (.answered r))
    ∨ (∃ v, i = .seed v ∧ t = (((s.setWords (seedWords v)).setIndex 312#9).setSeeded true).record
        (.answered ⟨.ok, 0#64⟩))
    ∨ ((∃ operand, i = .next operand) ∧ s.seeded = true ∧ s.index = 312#9 ∧
        t = ((s.setWords (twist twistMode s.words)).setIndex 1#9).record
          (.answered ⟨.ok, temper ((twist twistMode s.words)[0]'(by decide))⟩))
    ∨ ((∃ operand, i = .next operand) ∧ s.seeded = true ∧ ∃ hi : s.index.toNat < 312,
        t = (s.setIndex (s.index + 1#9)).record (.answered ⟨.ok, temper (s.words[s.index.toNat]'hi)⟩)) := by
  cases i with
  | nop operand => cases h; exact .inl ⟨fun _ ho => (nomatch ho), _, rfl, rfl⟩
  | reserved operand => cases h; exact .inl ⟨fun _ ho => (nomatch ho), _, rfl, rfl⟩
  | seed v => cases h; exact .inr (.inl ⟨v, rfl, rfl⟩)
  | next operand =>
    rw [exec_next] at h
    rcases nextIn_cases twistMode s with ⟨hs, he⟩ | ⟨hs, hi, he⟩ | ⟨hs, hi, he⟩ | ⟨hs, hi, he⟩ <;>
      rw [he] at h <;> cases h
    · exact .inl ⟨fun _ _ => hs, _, rfl, rfl⟩
    · exact .inr (.inr (.inl ⟨⟨operand, rfl⟩, hs, hi, rfl⟩))
    · exact .inr (.inr (.inr ⟨⟨operand, rfl⟩, hs, hi, rfl⟩))

theorem step_of_nil {s : State} (h : s.inputs = []) : step s = .next s := by
  simp only [step, h]

theorem step_of_request {s : State} {w : ReqWord} {rest : List HostInput} (h : s.inputs = .request w :: rest) :
    step s = exec (decode w) (s.setInputs rest) := by
  simp only [step, h]

theorem step_of_reset {s : State} {rest : List HostInput} (h : s.inputs = .reset :: rest) :
    step s = .next (applyReset (s.setInputs rest)) := by
  simp only [step, h]

theorem step_of_resetDuring {s : State} {w : ReqWord} {rest : List HostInput}
    (h : s.inputs = .resetDuring w :: rest) : step s = .next (applyReset (s.setInputs rest)) := by
  simp only [step, h, abandonByReset]

/-- A run that completes completes its first step, and the rest from there. -/
theorem run_succ_eq_next {k : Nat} {s t : State} (h : run (k + 1) s = .next t) :
    ∃ u : State, step s = .next u ∧ run k u = .next t := by
  cases hs : step s with
  | next u => exact ⟨u, rfl, by rwa [run_succ_of_next hs] at h⟩
  | fault f => simp only [run, hs, reduceCtorEq] at h
  | refused r => simp only [run, hs, reduceCtorEq] at h

end Sys2Proof.Machine
end

section
/-! SUPPORT. The cursor invariant (10_state.md R23): what meets it completes, and meets it again. -/

namespace Sys2Proof.Machine

theorem powerOn_inv (d : FreeDraw) : (State.powerOn d).Inv :=
  ⟨by simp, fun _ => rfl⟩

theorem applyReset_inv (s : State) : (applyReset s).Inv :=
  ⟨by simp, fun _ => rfl⟩

theorem powerOn_eventsSound (d : FreeDraw) : (State.powerOn d).EventsSound := by
  simp

/-- Below N the cursor's increment does not wrap in its 9 bits. -/
theorem toNat_index_succ {i : BitVec 9} (h : i.toNat < 312) : (i + 1#9).toNat = i.toNat + 1 := by
  rw [BitVec.toNat_add, BitVec.toNat_ofNat]
  omega

/-- R23 of a draw, in either mode: it completes, keeps the invariant and leaves the cursor in 1..N. -/
theorem nextIn_completes_of_inv (mode : Config.TwistMode) {s : State} (h : s.Inv) :
    ∃ t : State, nextIn mode s = .next t ∧ t.Inv ∧ 1 ≤ t.index.toNat := by
  obtain ⟨hle, hN⟩ := h
  rcases nextIn_cases mode s with ⟨hs, he⟩ | ⟨hs, hi, he⟩ | ⟨hs, hi, he⟩ | ⟨hs, hi, he⟩
  · exact ⟨_, he, ⟨hle, hN⟩, by simp [hN hs]⟩
  · exact ⟨_, he, ⟨by simp, by simp [hs]⟩, by simp⟩
  · have hsucc := toNat_index_succ hi
    exact ⟨_, he, ⟨by simp only [record_index, setIndex_index]; omega, by simp [hs]⟩,
      by simp only [record_index, setIndex_index]; omega⟩
  · exact absurd hi (Nat.not_lt.mpr hle)

theorem exec_completes_of_inv (i : Instr) {s : State} (h : s.Inv) : ∃ t : State, exec i s = .next t ∧ t.Inv := by
  cases i with
  | nop operand => exact ⟨_, exec_nop operand s, h⟩
  | reserved operand => exact ⟨_, exec_reserved operand s, h⟩
  | seed v => exact ⟨_, exec_seed v s, by simp, by simp⟩
  | next operand =>
    obtain ⟨t, ht, hinv, -⟩ := nextIn_completes_of_inv twistMode h
    exact ⟨t, ht, hinv⟩

theorem step_completes_of_inv {s : State} (h : s.Inv) : ∃ t : State, step s = .next t ∧ t.Inv := by
  rcases step_cases s with ⟨-, he⟩ | ⟨rest, -, he⟩ | ⟨w, rest, -, he⟩ | ⟨w, rest, -, he⟩
  · exact ⟨s, he, h⟩
  · exact ⟨_, he, applyReset_inv _⟩
  · exact ⟨_, he, applyReset_inv _⟩
  · rw [he]
    exact exec_completes_of_inv (decode w) (s := s.setInputs rest) h

end Sys2Proof.Machine
end

section
/-! SUPPORT. Engines that differ at most in the words of an Unseeded array (10_state.md R28): the relation is kept by
every operation of a step, so by every run. In Seeded the two engines are one state; in Unseeded no request reads the
words, and SEED makes them equal. -/

namespace Sys2Proof.Machine
namespace State.AgreeUnlessUnseeded

variable {s t : State}

theorem refl (s : State) : s.AgreeUnlessUnseeded s := ⟨rfl, rfl, rfl, rfl, rfl, fun _ => rfl⟩

theorem eq_of_seeded (h : s.AgreeUnlessUnseeded t) (hs : s.seeded = true) : s = t := by
  obtain ⟨hindex, hseeded, hinputs, hevents, hdraw, hwords⟩ := h
  cases s
  cases t
  simp_all

theorem record (h : s.AgreeUnlessUnseeded t) (e : Event) : (s.record e).AgreeUnlessUnseeded (t.record e) where
  index := h.index
  seeded := h.seeded
  inputs := h.inputs
  events := by simp [h.events]
  freeDraw := h.freeDraw
  words := h.words

theorem setInputs (h : s.AgreeUnlessUnseeded t) (rest : List HostInput) :
    (s.setInputs rest).AgreeUnlessUnseeded (t.setInputs rest) where
  index := h.index
  seeded := h.seeded
  inputs := rfl
  events := h.events
  freeDraw := h.freeDraw
  words := h.words

/-- "SEED overwrites all N words before `seeded` becomes 1" (R28). -/
theorem initialise (h : s.AgreeUnlessUnseeded t) (ws : WordArray) (i : BitVec 9) :
    (((s.setWords ws).setIndex i).setSeeded true).AgreeUnlessUnseeded (((t.setWords ws).setIndex i).setSeeded true) where
  index := rfl
  seeded := rfl
  inputs := h.inputs
  events := h.events
  freeDraw := h.freeDraw
  words := fun _ => rfl

theorem applyReset (h : s.AgreeUnlessUnseeded t) :
    (Machine.applyReset s).AgreeUnlessUnseeded (Machine.applyReset t) where
  index := rfl
  seeded := rfl
  inputs := by simp [h.inputs]
  events := by simp [h.events]
  freeDraw := by simp [h.freeDraw]
  words := fun hs => by simp at hs

theorem exec (h : s.AgreeUnlessUnseeded t) {i : Instr} {s' : State} (he : Machine.exec i s = .next s') :
    ∃ t' : State, Machine.exec i t = .next t' ∧ s'.AgreeUnlessUnseeded t' := by
  cases hs : s.seeded with
  | true => exact ⟨s', h.eq_of_seeded hs ▸ he, refl s'⟩
  | false =>
    cases i with
    | nop operand => cases he; exact ⟨_, exec_nop operand t, h.record _⟩
    | reserved operand => cases he; exact ⟨_, exec_reserved operand t, h.record _⟩
    | seed v => cases he; exact ⟨_, exec_seed v t, (h.initialise _ _).record _⟩
    | next operand =>
      rw [exec_next, nextIn_of_unseeded twistMode s hs] at he
      cases he
      exact ⟨_, nextIn_of_unseeded twistMode t (h.seeded ▸ hs), h.record _⟩

theorem step (h : s.AgreeUnlessUnseeded t) {s' : State} (he : Machine.step s = .next s') :
    ∃ t' : State, Machine.step t = .next t' ∧ s'.AgreeUnlessUnseeded t' := by
  rcases step_cases s with ⟨hi, hs⟩ | ⟨rest, hi, hs⟩ | ⟨w, rest, hi, hs⟩ | ⟨w, rest, hi, hs⟩ <;>
    rw [hs] at he <;> rw [h.inputs] at hi
  · cases he; exact ⟨t, step_of_nil hi, h⟩
  · cases he; exact ⟨_, step_of_reset hi, (h.setInputs rest).applyReset⟩
  · cases he; exact ⟨_, step_of_resetDuring hi, (h.setInputs rest).applyReset⟩
  · rw [step_of_request hi]
    exact (h.setInputs rest).exec he

theorem run {s' : State} : ∀ {k : Nat} {s t : State}, s.AgreeUnlessUnseeded t → Machine.run k s = .next s' →
    ∃ t' : State, Machine.run k t = .next t' ∧ s'.AgreeUnlessUnseeded t'
  | 0, s, t, h, he => by cases he; exact ⟨t, run_zero t, h⟩
  | k + 1, s, t, h, he => by
    obtain ⟨s₁, hs₁, hrun⟩ := run_succ_eq_next he
    obtain ⟨t₁, ht₁, h₁⟩ := h.step hs₁
    rw [run_succ_of_next ht₁]
    exact h₁.run hrun

end State.AgreeUnlessUnseeded
end Sys2Proof.Machine
end

section
/-! SUPPORT. Engines with the same three elements (10_state.md R29): they answer every request, and every sequence of
draws, alike, whatever their histories and coming moves. -/

namespace Sys2Proof.Machine

/-- The same `words`, `index` and `seeded`: all that R29 lets a response depend on. -/
structure State.SameElements (s s' : State) : Prop where
  words : s.words = s'.words
  index : s.index = s'.index
  seeded : s.seeded = s'.seeded

/-- `t` and `t'` come from `s` and `s'` by one and the same response, and have the same elements. -/
def AnsweredAlike (s s' t t' : State) : Prop :=
  t.SameElements t' ∧ ∃ r : Response, t.events = s.events ++ [.answered r] ∧ t'.events = s'.events ++ [.answered r]

variable {s s' t : State}

theorem nextIn_sameElements (mode : Config.TwistMode) (h : s.SameElements s') (he : nextIn mode s = .next t) :
    ∃ t' : State, nextIn mode s' = .next t' ∧ AnsweredAlike s s' t t' := by
  obtain ⟨hw, hi, hd⟩ := h
  rcases nextIn_cases mode s with ⟨hs, hn⟩ | ⟨hs, hN, hn⟩ | ⟨hs, hlt, hn⟩ | ⟨hs, hgt, hn⟩ <;>
    rw [hn] at he <;> cases he
  · exact ⟨_, nextIn_of_unseeded mode s' (hd ▸ hs), ⟨hw, hi, hd⟩, _, rfl, rfl⟩
  · refine ⟨_, nextIn_of_exhausted mode s' (hd ▸ hs) (hi ▸ hN), ?_⟩
    simp only [← hw]
    exact ⟨⟨rfl, rfl, hd⟩, _, rfl, rfl⟩
  · refine ⟨_, nextIn_of_lt mode s' (hd ▸ hs) (hi ▸ hlt), ?_⟩
    simp only [← hw, ← hi]
    exact ⟨⟨hw, rfl, hd⟩, _, rfl, rfl⟩

theorem exec_sameElements {i : Instr} (h : s.SameElements s') (he : exec i s = .next t) :
    ∃ t' : State, exec i s' = .next t' ∧ AnsweredAlike s s' t t' := by
  cases i with
  | nop operand => cases he; exact ⟨_, exec_nop operand s', ⟨h.words, h.index, h.seeded⟩, _, rfl, rfl⟩
  | reserved operand => cases he; exact ⟨_, exec_reserved operand s', ⟨h.words, h.index, h.seeded⟩, _, rfl, rfl⟩
  | seed v => cases he; exact ⟨_, exec_seed v s', ⟨rfl, rfl, rfl⟩, _, rfl, rfl⟩
  | next operand => exact nextIn_sameElements twistMode h he

/-- "two engines seeded identically give identical output sequences, element for element" (R29), from any two engines
with the same elements that meet the invariant, in either mode. -/
theorem drawMany_sameElements (mode : Config.TwistMode) : ∀ (k : Nat) {s s' : State}, s.Inv → s.SameElements s' →
    ∃ (u u' : State) (new : List Event), drawMany mode k s = .next u ∧ drawMany mode k s' = .next u' ∧
      new.length = k ∧ u.events = s.events ++ new ∧ u'.events = s'.events ++ new
  | 0, s, s', _, _ => ⟨s, s', [], rfl, rfl, rfl, by simp, by simp⟩
  | k + 1, s, s', hinv, h => by
    obtain ⟨t, ht, htinv, -⟩ := nextIn_completes_of_inv mode hinv
    obtain ⟨t', ht', helems, r, hev, hev'⟩ := nextIn_sameElements mode h ht
    obtain ⟨u, u', new, hu, hu', hlen, hnew, hnew'⟩ := drawMany_sameElements mode k htinv helems
    refine ⟨u, u', .answered r :: new, ?_, ?_, by simp [hlen], ?_, ?_⟩
    · rw [drawMany_succ_of_next ht, hu]
    · rw [drawMany_succ_of_next ht', hu']
    · simp [hnew, hev]
    · simp [hnew', hev']

end Sys2Proof.Machine
end

section
/-! SUPPORT. What stops a request (93_implementation_defined.md U6), and what a request writes (10_state.md R20 to R22). -/

namespace Sys2Proof.Machine

theorem nextIn_eq_fault_iff (mode : Config.TwistMode) (s : State) (f : Fault) :
    nextIn mode s = .fault f ↔ s.seeded = true ∧ 312 < s.index.toNat ∧ f = .cursorOutOfRange := by
  rcases nextIn_cases mode s with ⟨hs, he⟩ | ⟨hs, hi, he⟩ | ⟨hs, hi, he⟩ | ⟨hs, hi, he⟩
  · simp [he, hs]
  · simp [he, hi]
  · simp [he, Nat.not_lt.mpr hi.le]
  · simp [he, hs, hi]

theorem nextIn_ne_refused (mode : Config.TwistMode) (s : State) (r : Refusal) : nextIn mode s ≠ .refused r := by
  rcases nextIn_cases mode s with ⟨-, he⟩ | ⟨-, -, he⟩ | ⟨-, _, he⟩ | ⟨-, -, he⟩ <;> simp [he]

theorem opField_append_operandField (w : ReqWord) : (opField w ++ operandField w : ReqWord) = w := by
  apply BitVec.eq_of_getLsbD_eq
  intro k hk
  simp only [opField, operandField, BitVec.getLsbD_append, BitVec.getLsbD_extractLsb']
  by_cases h : k < 64
  · simp [h]
  · simp [h, show k - 64 < 2 by omega, show 64 + (k - 64) = k by omega]

/-- A request word that decodes to a SEED is the word of that SEED. -/
theorem eq_append_of_decode_eq_seed {w : ReqWord} {v : Word} (h : decode w = .seed v) : w = 0b01#2 ++ v := by
  unfold decode at h
  split_ifs at h with h00 h01 h10
  cases h
  rw [← h01, opField_append_operandField]

/-- Of the requests, SEED alone writes `seeded`, and writes 1. -/
theorem exec_changes_seeded {i : Instr} {s t : State} (h : exec i s = .next t) (hne : t.seeded ≠ s.seeded) :
    ∃ v, i = .seed v ∧ t.seeded = true := by
  rcases exec_eq_next_cases h with ⟨-, r, -, rfl⟩ | ⟨v, hi, rfl⟩ | ⟨-, -, -, rfl⟩ | ⟨-, -, _, rfl⟩
  · exact absurd rfl hne
  · exact ⟨v, hi, rfl⟩
  · exact absurd rfl hne
  · exact absurd rfl hne

theorem readRequest_of_lt {value : Nat} (h : value < 2 ^ 66) :
    readRequest value = .ok (BitVec.ofFin ⟨value, h⟩) := by
  have hw : BitVec.ofNat 66 value = BitVec.ofFin ⟨value, h⟩ :=
    BitVec.eq_of_toNat_eq (by simpa using Nat.mod_eq_of_lt h)
  simp only [readRequest, h, if_true, hw]

end Sys2Proof.Machine
end

section
/-! The obligations of 10_state.md: the elements of the state, who writes them, their reset values and invariants, and
what a response depends on. -/

namespace Sys2Proof.Proofs
open Sys2Proof.Machine

/-- Settles O36: the reset values, and the agreement that every step keeps, over a run. -/
theorem unspecifiedWordsAreNeverObserved : Obligations.UnspecifiedWordsAreNeverObserved :=
  ⟨fun s => ⟨applyReset_seeded s, applyReset_index s⟩, ⟨powerOn_seeded _, powerOn_index _⟩,
    fun _ _ _ _ h hrun => h.run hrun⟩

/-- Settles O38: from the invariant a step, and a NEXT, completes in some state of which R23 holds, and an outcome is
one state only. -/
theorem cursorInvariantsHoldAndAreKept : Obligations.CursorInvariantsHoldAndAreKept := by
  refine ⟨powerOn_inv, fun s => by simp, fun s t h ht => ?step, fun operand s t h ht => ?next⟩
  case step =>
    obtain ⟨u, hu, hinv⟩ := step_completes_of_inv h
    cases hu.symm.trans ht
    exact hinv
  case next =>
    obtain ⟨u, hu, ⟨hle, -⟩, hpos⟩ := nextIn_completes_of_inv twistMode h
    cases hu.symm.trans ht
    exact ⟨hpos, hle⟩

/-- Settles O16: NOP, SEED and the reserved request answer, and a NEXT stops exactly where a draw does. -/
theorem onlyAnUnreachableCursorStops : Obligations.OnlyAnUnreachableCursorStops := by
  intro i s
  cases i with
  | nop operand => simp
  | seed v => simp
  | reserved operand => simp
  | next operand =>
    exact ⟨fun f => by simp [nextIn_eq_fault_iff], nextIn_ne_refused twistMode s⟩

/-- Settles O31: engines with the same elements answer a request alike; SEED makes the elements the same and meets the
invariant, so all later draws complete and answer alike. -/
theorem responseDependsOnEngineStateAlone : Obligations.ResponseDependsOnEngineStateAlone := by
  refine ⟨fun i s s' t hw hi hd he => ?request, fun v s s' => ?seeded⟩
  case request =>
    obtain ⟨t', he', helems, r, hev, hev'⟩ := exec_sameElements ⟨hw, hi, hd⟩ he
    exact ⟨t', r, he', hev, hev', helems.words.symm, helems.index.symm, helems.seeded.symm⟩
  case seeded =>
    refine ⟨_, _, exec_seed v s, exec_seed v s', rfl, rfl, rfl, fun k => ?_⟩
    exact drawMany_sameElements twistMode k ⟨by simp, by simp⟩ ⟨rfl, rfl, rfl⟩

/-- Settles O32: a step that changes `seeded` is no idle step, so it is a reset or a request, and then a SEED. -/
theorem onlySeedAndResetWriteSeeded : Obligations.OnlySeedAndResetWriteSeeded := by
  refine ⟨fun v s t h => ?seed, applyReset_seeded, fun s t h hne => ?step⟩
  case seed =>
    cases h
    rfl
  case step =>
    rcases step_cases s with ⟨-, he⟩ | ⟨rest, hi, he⟩ | ⟨w, rest, hi, he⟩ | ⟨w, rest, hi, he⟩ <;> rw [he] at h
    · cases h
      exact absurd rfl hne
    · cases h
      exact .inr (.inl ⟨rest, hi, rfl⟩)
    · cases h
      exact .inr (.inr ⟨w, rest, hi, rfl⟩)
    · obtain ⟨v, hv, ht⟩ := exec_changes_seeded h hne
      exact .inl ⟨v, rest, eq_append_of_decode_eq_seed hv ▸ hi, ht⟩

/-- Settles O33: the four cases of an answered request, each read off at `words` and at `index`. -/
theorem requestsWriteWordsAndIndexOnlyWhereStated : Obligations.RequestsWriteWordsAndIndexOnlyWhereStated := by
  intro i s t h
  rcases exec_eq_next_cases h with ⟨-, r, -, rfl⟩ | ⟨v, hv, rfl⟩ | ⟨hn, hs, hi, rfl⟩ | ⟨hn, hs, hi, rfl⟩
  · exact ⟨fun hw => absurd rfl hw, fun hx => absurd rfl hx⟩
  · exact ⟨fun _ => .inl ⟨v, hv⟩, fun _ => .inl ⟨v, hv, rfl⟩⟩
  · exact ⟨fun _ => .inr ⟨hn, hs, hi⟩, fun _ => .inr ⟨hn, hs, by simp [hi]⟩⟩
  · have hne : s.index ≠ 312#9 := fun he => by simp [he] at hi
    refine ⟨fun hw => absurd rfl hw, fun _ => .inr ⟨hn, hs, ?_⟩⟩
    rw [if_neg hne]
    exact toNat_index_succ hi

/-- Settles O27: the placed word is read whole, and taking it leaves the original state. -/
theorem placedWordRunsNext : Obligations.PlacedWordRunsNext := by
  intro s nbits w h
  have hread := readRequest_of_lt h
  constructor
  · simp only [State.withFetchWord, hread]
    exact step_of_request (setInputs_inputs s _)
  · simp only [decodeTableWord, decodeBits, hread]
    rfl

/-- Settles O37: the reset state is a power-on, and every power-on meets both invariants. -/
theorem resetMeetsTheInvariants : Obligations.ResetMeetsTheInvariants :=
  ⟨powerOn_inv _, powerOn_eventsSound _, fun d => ⟨powerOn_inv d, powerOn_eventsSound d⟩⟩

end Sys2Proof.Proofs
end

section
/-! The obligations of 20_memory.md: SEED twice is SEED once (R36), and a step is its one decoded request (R37). -/

namespace Sys2Proof.Proofs
open Sys2Proof.Machine

/-- Settles O11: the elements SEED leaves are those of its operand alone, so the second SEED, which starts from the state
the first one left, writes the same ones. -/
theorem seedIsIdempotent : Obligations.SeedIsIdempotent := by
  intro v s
  refine ⟨_, _, exec_seed v s, exec_seed v _, ?words, ?index, ?seeded⟩
  case words => simp only [record_words, setSeeded_words, setIndex_words, setWords_words]
  case index => simp only [record_index, setSeeded_index, setIndex_index]
  case seeded => simp only [record_seeded, setSeeded_seeded]

/-- Settles O26: the case of a step whose next move is a request. -/
theorem stepRunsTheDecodedRequest : Obligations.StepRunsTheDecodedRequest :=
  fun _ _ _ hreq => step_of_request hreq

end Sys2Proof.Proofs
end

section
/-! SUPPORT. Request words by their two fields (30_encoding.md R42, R44, R50): `decode` by each value of `op`, and on the
word of each row of the opcode map. -/

namespace Sys2Proof

@[simp] theorem operandField_append (op : BitVec 2) (operand : Word) : operandField (op ++ operand : ReqWord) = operand :=
  BitVec.extractLsb'_append_eq_right

/-- The four values a two-bit field can hold. -/
theorem twoBits_cases (b : BitVec 2) : b = 0b00#2 ∨ b = 0b01#2 ∨ b = 0b10#2 ∨ b = 0b11#2 := by
  revert b; decide

variable {w : ReqWord}

theorem decode_of_op_nop (h : opField w = 0b00#2) : decode w = .nop (operandField w) := by simp [decode, h]

theorem decode_of_op_seed (h : opField w = 0b01#2) : decode w = .seed (operandField w) := by simp [decode, h]

theorem decode_of_op_next (h : opField w = 0b10#2) : decode w = .next (operandField w) := by simp [decode, h]

theorem decode_of_op_reserved (h : opField w = 0b11#2) : decode w = .reserved (operandField w) := by simp [decode, h]

@[simp] theorem decode_nop_word (operand : Word) : decode (0b00#2 ++ operand : ReqWord) = .nop operand := by
  rw [decode_of_op_nop (Laws.OpField.opField_append _ _), operandField_append]

@[simp] theorem decode_seed_word (v : Word) : decode (0b01#2 ++ v : ReqWord) = .seed v := by
  rw [decode_of_op_seed (Laws.OpField.opField_append _ _), operandField_append]

@[simp] theorem decode_next_word (operand : Word) : decode (0b10#2 ++ operand : ReqWord) = .next operand := by
  rw [decode_of_op_next (Laws.OpField.opField_append _ _), operandField_append]

@[simp] theorem decode_reserved_word (operand : Word) : decode (0b11#2 ++ operand : ReqWord) = .reserved operand := by
  rw [decode_of_op_reserved (Laws.OpField.opField_append _ _), operandField_append]

theorem decode_encode (i : Instr) : decode (encode i) = i := by
  cases i with
  | nop operand => exact decode_nop_word operand
  | seed v => exact decode_seed_word v
  | next operand => exact decode_next_word operand
  | reserved operand => exact decode_reserved_word operand

/-- Every word is the word of a request, since each constructor keeps the operand (log entry 10). -/
theorem exists_encode_eq (w : ReqWord) : ∃ i : Instr, encode i = w := by
  have hw := Machine.opField_append_operandField w
  rcases twoBits_cases (opField w) with h | h | h | h <;> rw [h] at hw
  · exact ⟨.nop (operandField w), hw⟩
  · exact ⟨.seed (operandField w), hw⟩
  · exact ⟨.next (operandField w), hw⟩
  · exact ⟨.reserved (operandField w), hw⟩

theorem encode_decode (w : ReqWord) : encode (decode w) = w := by
  obtain ⟨i, rfl⟩ := exists_encode_eq w
  rw [decode_encode]

theorem decodeBits_of_lt {n : Nat} (h : n < 2 ^ 66) : decodeBits n = .ok (decode (BitVec.ofFin ⟨n, h⟩)) := by
  simp only [decodeBits, Machine.readRequest_of_lt h]

theorem decodeBits_of_ge {n : Nat} (h : 2 ^ 66 ≤ n) : decodeBits n = .error .widerThanRequest := by
  simp only [decodeBits, readRequest, Nat.not_lt.mpr h, if_false]

end Sys2Proof
end

section
/-! SUPPORT. Response words by their two fields (30_encoding.md R43, R47), and the host's reading of them
(93_implementation_defined.md U7). -/

namespace Sys2Proof.Machine

theorem encode_status_field (r : Response) : (Response.encode r).extractLsb' 64 2 = r.status.code :=
  BitVec.extractLsb'_append_eq_left

theorem encode_result_field (r : Response) : (Response.encode r).extractLsb' 0 64 = r.result :=
  BitVec.extractLsb'_append_eq_right

theorem decodeResponse_encode (r : Response) : decodeResponse (Response.encode r) = some r := by
  have hstatus := encode_status_field r
  have hresult := encode_result_field r
  obtain ⟨status, result⟩ := r
  cases status <;> simp [decodeResponse, hstatus, hresult, Status.code]

theorem decodeResponse_eq_none_iff (w : RspWord) : decodeResponse w = none ↔ w.extractLsb' 64 2 = 0b11#2 := by
  rcases twoBits_cases (w.extractLsb' 64 2) with h | h | h | h <;> simp [decodeResponse, h]

end Sys2Proof.Machine
end

section
/-! SUPPORT. What an answered request adds to the history (30_encoding.md R43, R48). -/

namespace Sys2Proof.Machine

/-- One response, whose result is 0 where its status is an error; the host's coming moves and the free draw stand. -/
theorem exec_answers_once {i : Instr} {s t : State} (h : exec i s = .next t) :
    t.inputs = s.inputs ∧ t.freeDraw = s.freeDraw ∧
      ∃ r : Response, t.events = s.events ++ [.answered r] ∧ (r.status = .ok ∨ r.result = 0#64) := by
  rcases exec_eq_next_cases h with ⟨-, r, hr, rfl⟩ | ⟨v, -, rfl⟩ | ⟨-, -, -, rfl⟩ | ⟨-, -, _, rfl⟩
  · exact ⟨rfl, rfl, r, rfl, .inr hr⟩
  · exact ⟨rfl, rfl, _, rfl, .inl rfl⟩
  · exact ⟨rfl, rfl, _, rfl, .inl rfl⟩
  · exact ⟨rfl, rfl, _, rfl, .inl rfl⟩

/-- The response a history ends in is determined by it. -/
theorem answered_inj {es : List Event} {r r' : Response} (h : es ++ [.answered r] = es ++ [.answered r']) : r = r' := by
  simpa using h

/-- A draw is answered with ERR_UNSEEDED, or consumed the word before the cursor it left and answers that word,
tempered. -/
theorem nextIn_response {mode : Config.TwistMode} {s t : State} {r : Response} (h : nextIn mode s = .next t)
    (hev : t.events = s.events ++ [.answered r]) :
    r = ⟨.errUnseeded, 0#64⟩ ∨
    (r.status = .ok ∧ ∃ hi : t.index.toNat - 1 < 312, 1 ≤ t.index.toNat ∧
      r.result = temper (t.words[t.index.toNat - 1]'hi)) := by
  rcases nextIn_cases mode s with ⟨-, he⟩ | ⟨-, -, he⟩ | ⟨-, hi, he⟩ | ⟨-, -, he⟩ <;> rw [he] at h <;> cases h <;>
    cases answered_inj hev
  · exact .inl rfl
  · exact .inr ⟨rfl, by simp, by simp, rfl⟩
  · have hsucc := toNat_index_succ hi
    refine .inr ⟨rfl, ?bound, ?positive, ?word⟩
    case bound => simp only [record_index, setIndex_index]; omega
    case positive => simp only [record_index, setIndex_index]; omega
    case word => simp only [record_index, setIndex_index, record_words, setIndex_words, hsucc, Nat.add_sub_cancel]

/-- A new event that is no error response with a result keeps R48 of the history. -/
theorem eventsSound_of_append {s t : State} {e : Event} (h : s.EventsSound) (hev : t.events = s.events ++ [e])
    (he : e.resultZeroOnError = true) : t.EventsSound := by
  simp [State.EventsSound, hev, he, h]

end Sys2Proof.Machine
end

section
/-! SUPPORT. The assembler's immediates (30_encoding.md R51), and the digits of a listing (R52). -/

namespace Sys2Proof.Machine

theorem immInRange_toNat (v : Word) : immInRange (v.toNat : Int) = true := by
  have hv := v.isLt
  simp only [immInRange, Bool.and_eq_true, decide_eq_true_eq]
  omega

theorem immInRange_of_outside {imm : Int} (h : imm < 0 ∨ (2 : Int) ^ 64 ≤ imm) : immInRange imm = false := by
  simp only [immInRange, Bool.and_eq_false_iff, decide_eq_false_iff_not]
  omega

/-- The low `n` hex digits of `x`, the most significant first. -/
def hexDigits : Nat → Nat → List Char
  | 0, _ => []
  | n + 1, x => hexChar (x / 16 ^ n % 16) :: hexDigits n x

theorem hexDigits_length : ∀ n x : Nat, (hexDigits n x).length = n
  | 0, _ => rfl
  | n + 1, x => by simp [hexDigits, hexDigits_length n]

theorem listing_eq_hexDigits (w : ReqWord) : listing w = '0' :: 'x' :: hexDigits 17 w.toNat := rfl

theorem hexDigit_hexChar : ∀ d < 16, hexDigit (hexChar d) = some d := by decide

/-- Reading digits back continues the number read so far. -/
theorem readDigits_hexDigits (x : Nat) : ∀ n acc : Nat,
    readDigits hexDigit 16 acc (hexDigits n x) = some (acc * 16 ^ n + x % 16 ^ n)
  | 0, acc => by simp [hexDigits, readDigits, Nat.mod_one]
  | n + 1, acc => by
    have hd := hexDigit_hexChar (x / 16 ^ n % 16) (Nat.mod_lt _ (by decide))
    simp only [hexDigits, readDigits, hd, readDigits_hexDigits x n, Nat.mod_pow_succ (x := x)]
    congr 1
    ring

theorem toNat_eq_fields (w : ReqWord) :
    w.toNat = (w.extractLsb' 64 2).toNat * 2 ^ 64 + (w.extractLsb' 0 64).toNat := by
  have hw := w.isLt
  simp only [BitVec.extractLsb'_toNat, Nat.shiftRight_eq_div_pow]
  omega

end Sys2Proof.Machine
end

section
/-! The obligations of 30_encoding.md: request words and their decoding, response words and results, and the assembler's
lines and listing. -/

namespace Sys2Proof.Proofs
open Sys2Proof.Machine

/-- Settles O1: each constructor's word decodes to it; every word is some request's word, which turns the first direction
into the second. -/
theorem decodeAndEncodeAreInverse : Obligations.DecodeAndEncodeAreInverse :=
  ⟨decode_encode, encode_decode⟩

/-- Settles O6: the two fields of a response word, and its reading by each of the four status codes. -/
theorem responseWordsCarryStatusAndResult : Obligations.ResponseWordsCarryStatusAndResult := by
  refine ⟨fun r => ⟨encode_result_field r, ?ok, ?unseeded, ?illegal, decodeResponse_encode r⟩,
    fun w => (decodeResponse_eq_none_iff w).symm⟩ <;> intro hs <;> rw [encode_status_field, hs] <;> rfl

/-- Settles O15: a NEXT by what a draw can answer; the responses of the other requests are literal. -/
theorem resultIsTheTemperedWordOrZero : Obligations.ResultIsTheTemperedWordOrZero := by
  intro i s t r h hev
  cases i with
  | nop operand => cases h; cases answered_inj hev; exact .inr ⟨by simp, rfl⟩
  | seed v => cases h; cases answered_inj hev; exact .inr ⟨by simp, rfl⟩
  | reserved operand => cases h; cases answered_inj hev; exact .inr ⟨by simp, rfl⟩
  | next operand =>
    rcases nextIn_response h hev with rfl | ⟨hok, hword⟩
    · exact .inr ⟨by simp, rfl⟩
    · exact .inl ⟨⟨operand, rfl⟩, hok, hword⟩

/-- Settles O28: the step is `exec` of the request with its move consumed, and that adds one response. -/
theorem everyRequestIsAnsweredOnce : Obligations.EveryRequestIsAnsweredOnce := by
  intro s t w rest hi h
  rw [step_of_request hi] at h
  obtain ⟨hinputs, hdraw, r, hev, -⟩ := exec_answers_once h
  exact ⟨hinputs, hdraw, r, hev⟩

/-- Settles O39: a step adds no event, a reset mark, or one response, which has result 0 if it is an error. -/
theorem stepKeepsErrorResultsZero : Obligations.StepKeepsErrorResultsZero := by
  intro s t hs h
  rcases step_cases s with ⟨-, he⟩ | ⟨rest, -, he⟩ | ⟨w, rest, -, he⟩ | ⟨w, rest, -, he⟩ <;> rw [he] at h
  · cases h; exact hs
  · cases h; exact eventsSound_of_append hs (applyReset_events _) rfl
  · cases h; exact eventsSound_of_append hs (applyReset_events _) rfl
  · obtain ⟨-, -, r, hev, hr⟩ := exec_answers_once h
    exact eventsSound_of_append hs hev (by simpa [Event.resultZeroOnError] using hr)

/-- Settles O44: 17 hex digits hold every 66-bit value, so reading them gives the whole word. -/
theorem listingReadsBack : Obligations.ListingReadsBack := by
  intro w
  have hfits : w.toNat % 16 ^ 17 = w.toNat := Nat.mod_eq_of_lt (w.isLt.trans (by norm_num))
  rw [listing_eq_hexDigits]
  refine ⟨by simp [hexDigits_length], rfl, ?_⟩
  calc readDigits hexDigit 16 0 (hexDigits 17 w.toNat)
      = some (0 * 16 ^ 17 + w.toNat % 16 ^ 17) := readDigits_hexDigits w.toNat 17 0
    _ = some w.toNat := by rw [hfits, Nat.zero_mul, Nat.zero_add]
    _ = _ := by rw [← toNat_eq_fields]

/-- Settles O2: the dispatch of R50 at each value of `op`. -/
theorem decodeSelectsByOpAlone : Obligations.DecodeSelectsByOpAlone :=
  fun _ => ⟨decode_of_op_nop, decode_of_op_seed, decode_of_op_next, decode_of_op_reserved⟩

/-- Settles O3: the decoder evaluated on each listed word. -/
theorem listedRequestWordsDecode : Obligations.ListedRequestWordsDecode := by
  unfold Obligations.ListedRequestWordsDecode
  decide

/-- Settles O4: the reader's two cases, below 2^66 and from there on. -/
theorem onlySixtySixBitsDecode : Obligations.OnlySixtySixBitsDecode :=
  ⟨fun w => decodeBits_of_lt w.isLt, fun _ h => decodeBits_of_ge h⟩

/-- Settles O5: SEED's word gives its operand; the meanings of the other three do not name theirs. -/
theorem operandIsSeedOrIgnored : Obligations.OperandIsSeedOrIgnored := by
  refine ⟨decode_seed_word, fun a b s => ⟨?nop, ?next, ?reserved⟩⟩
  case nop => rw [decode_nop_word, decode_nop_word, exec_nop, exec_nop]
  case next => rw [decode_next_word, decode_next_word, exec_next, exec_next]
  case reserved => rw [decode_reserved_word, decode_reserved_word, exec_reserved, exec_reserved]

/-- Settles O43: the mnemonics are their raw forms by definition; an immediate is taken whole or refused by the range
check. -/
theorem assemblerNeverWraps : Obligations.AssemblerNeverWraps := by
  refine ⟨rfl, rfl, fun _ => rfl, fun op v => ?whole, fun op imm h => ?refused⟩
  case whole =>
    simp only [assemble, immInRange_toNat, if_true, BitVec.ofInt_natCast, BitVec.ofNat_toNat, BitVec.setWidth_eq]
  case refused => simp only [assemble, immInRange_of_outside h, Bool.false_eq_true, if_false]

end Sys2Proof.Proofs
end

section
/-! SUPPORT. The seeded array word by word (40_seed.md R54, R55), and the elements SEED leaves (R56). -/

namespace Sys2Proof.Machine

/-- Each word of the recurrence's list after the first is `init_step` of the word before it and its own place. -/
theorem seedTail_getElem_succ : ∀ (n i : Nat) (p : Word) (j : Nat) (h : j + 1 < (p :: seedTail n i p).length),
    (p :: seedTail n i p)[j + 1] = initStep ((p :: seedTail n i p)[j]'(Nat.lt_of_succ_lt h)) (i + j)
  | 0, _, _, _, h => absurd h (by simp [seedTail])
  | _ + 1, _, _, 0, _ => rfl
  | n + 1, i, p, j + 1, h => by
    have ih := seedTail_getElem_succ n (i + 1) (initStep p i) j (Nat.lt_of_succ_lt_succ h)
    rwa [Nat.add_right_comm i 1 j] at ih

theorem seedWords_getElem (v : Word) (i : Nat) (h : i < 312) :
    (seedWords v)[i]'h = (v :: seedTail 311 1 v)[i]'(by simpa [seedTail_length] using h) := by
  simp only [← seedWords_toList, Vector.getElem_toList]

theorem seedWords_getElem_zero (v : Word) : (seedWords v)[0] = v :=
  seedWords_getElem v 0 (by decide)

/-- The recurrence of R55 between neighbouring words of the seeded array. -/
theorem seedWords_getElem_succ (v : Word) (i : Nat) (h : i + 1 < 312) :
    (seedWords v)[i + 1]'h = initStep ((seedWords v)[i]'(Nat.lt_of_succ_lt h)) (i + 1) := by
  rw [seedWords_getElem, seedWords_getElem, seedTail_getElem_succ, Nat.add_comm 1 i]

/-- SEED completes in any two engines and leaves them the same elements, which meet the cursor invariant. -/
theorem exec_seed_sameElements (v : Word) (s s' : State) : ∃ t t' : State,
    exec (.seed v) s = .next t ∧ exec (.seed v) s' = .next t' ∧ t.SameElements t' ∧ t.Inv :=
  ⟨_, _, exec_seed v s, exec_seed v s', ⟨rfl, rfl, rfl⟩, by simp, by simp⟩

end Sys2Proof.Machine
end

section
/-! The obligations of 40_seed.md: the state SEED initialises (R54, R55), and the sequence it restarts (R56). -/

namespace Sys2Proof.Proofs
open Sys2Proof.Machine

/-- Settles O9: the words are `seedWords v`, which meets the recurrence; the other clauses are the fields of SEED's
answer. -/
theorem seedInitialisesTheWholeState : Obligations.SeedInitialisesTheWholeState := by
  intro v s
  refine ⟨decode_seed_word v, _, exec_seed v s, ?first, ?recurrence, rfl, rfl, rfl, rfl, rfl⟩
  case first => exact seedWords_getElem_zero v
  case recurrence => exact seedWords_getElem_succ v

/-- Settles O10: SEED leaves any state and the fresh engine the same elements, and engines with the same elements answer
every sequence of draws alike. -/
theorem seedRestartsTheSequence : Obligations.SeedRestartsTheSequence := by
  intro v s d
  obtain ⟨t, u, ht, hu, hsame, hinv⟩ := exec_seed_sameElements v s (State.powerOn d)
  refine ⟨t, u, ht, hu, hsame.words, hsame.index, hsame.seeded, fun mode k => ?_⟩
  obtain ⟨t', u', new, ht', hu', hlen, hev, hev'⟩ := drawMany_sameElements mode k hinv hsame
  exact ⟨t', u', new, ht', hu', hev, hev', hlen⟩

end Sys2Proof.Proofs
end

section
/-! SUPPORT. The word-level twist bit by bit (41_twist.md R58), with the masks of 00_scope.md R8 and R9 as sets of bits. -/

namespace Sys2Proof.Machine

theorem upperMask_getLsbD : ∀ k < 64, upperMask.getLsbD k = decide (31 ≤ k) := by decide

theorem lowerMask_getLsbD : ∀ k < 64, lowerMask.getLsbD k = !decide (31 ≤ k) := by decide

theorem combine_getLsbD (a b : Word) (k : Nat) (hk : k < 64) :
    (combine a b).getLsbD k = if 31 ≤ k then a.getLsbD k else b.getLsbD k := by
  rw [combine, BitVec.getLsbD_or, BitVec.getLsbD_and, BitVec.getLsbD_and, upperMask_getLsbD k hk, lowerMask_getLsbD k hk]
  by_cases h : 31 ≤ k <;> simp [h]

theorem mix_of_even (x : Word) (h : x.getLsbD 0 = false) : mix x = x >>> 1 := by
  rw [mix, h, if_neg Bool.false_ne_true, BitVec.xor_zero]

theorem mix_of_odd (x : Word) (h : x.getLsbD 0 = true) : mix x = (x >>> 1) ^^^ matrixA := by
  rw [mix, h, if_pos rfl]

end Sys2Proof.Machine
end

section
/-! SUPPORT. Each twist word by word. Round `i` of an in-place pass meets an array whose words below `i` have their final
value and whose words from `i` on are still the old ones; so a read `k` places on is of the old array unless it wraps. -/

namespace Sys2Proof.Machine

theorem wordAfter_of_lt (ws : WordArray) (i k : Nat) (h : i + k < 312) : wordAfter ws i k = ws[i + k]'h := by
  simp only [wordAfter_eq, Nat.mod_eq_of_lt h]

/-- A read that wraps, from a place and by a distance within the array, lands 312 places back. -/
theorem wordAfter_of_ge (ws : WordArray) (i k : Nat) (hi : i < 312) (hk : k ≤ 312) (h : 312 ≤ i + k) :
    wordAfter ws i k = ws[i + k - 312]'(by simp only [Config.N]; omega) := by
  have hmod : (i + k) % 312 = i + k - 312 := by omega
  simp only [wordAfter_eq, hmod]

theorem twistSnapshot_getElem (old : WordArray) (i : Nat) (h : i < 312) :
    (twistSnapshot old)[i]'h = twistWord (old[i]'h) (wordAfter old i 1) (wordAfter old i Config.M) := by
  simp [twistSnapshot, snapshotWord]

/-- Word `i` of the sequential twist is the one round `i` writes, from the array that round meets. -/
theorem twistSequential_getElem (ws : WordArray) (i : Nat) (h : i < 312) :
    (twistSequential ws)[i]'h =
      twistWord (ws[i]'h) (wordAfter (twistPass i h.le ws) i 1) (wordAfter (twistPass i h.le ws) i Config.M) := by
  simp only [twistSequential_eq_pass]
  rw [twistPass_getElem_of_lt ws i h 312 _ h, twistPass_succ, Vector.getElem_set_self,
    twistPass_getElem_of_ge ws i h i h.le le_rfl]

/-- After `n` rounds the words below `n` are those of the whole twist. -/
theorem twistPass_getElem_eq_twistSequential (ws : WordArray) (n : Nat) (h : n ≤ Config.N) (j : Nat) (hj : j < n) :
    (twistPass n h ws)[j]'(hj.trans_le h) = (twistSequential ws)[j]'(hj.trans_le h) := by
  simp only [twistSequential_eq_pass]
  rw [twistPass_getElem_of_lt ws j _ n h hj, twistPass_getElem_of_lt ws j _ 312 _ (hj.trans_le h)]

/-- A read of round `i` that does not wrap is of the old array. -/
theorem wordAfter_twistPass_of_lt (ws : WordArray) (i k : Nat) (hi : i ≤ Config.N) (h : i + k < 312) :
    wordAfter (twistPass i hi ws) i k = ws[i + k]'h := by
  rw [wordAfter_of_lt _ i k h, twistPass_getElem_of_ge ws (i + k) h i hi (Nat.le_add_right i k)]

/-- A read of round `i` that wraps is of a word already replaced. -/
theorem wordAfter_twistPass_of_ge (ws : WordArray) (i k : Nat) (hi : i < 312) (hk : k < 312) (h : 312 ≤ i + k) :
    wordAfter (twistPass i hi.le ws) i k = (twistSequential ws)[i + k - 312]'(by simp only [Config.N]; omega) := by
  rw [wordAfter_of_ge _ i k hi hk.le h, twistPass_getElem_eq_twistSequential ws i hi.le (i + k - 312) (by omega)]

/-- The modes differ only where a read wraps: below 156 none does (R62). -/
theorem twistSnapshot_getElem_eq_twistSequential (ws : WordArray) (i : Nat) (h : i < 156) :
    (twistSnapshot ws)[i]'(Nat.lt_trans h (by decide)) = (twistSequential ws)[i]'(Nat.lt_trans h (by decide)) := by
  have hsucc : i + 1 < 312 := by omega
  have hmiddle : i + 156 < 312 := by omega
  rw [twistSnapshot_getElem, twistSequential_getElem, wordAfter_of_lt ws i 1 hsucc, wordAfter_of_lt ws i Config.M hmiddle,
    wordAfter_twistPass_of_lt ws i 1 _ hsucc, wordAfter_twistPass_of_lt ws i Config.M _ hmiddle]

/-- The outputs #0..#311 after a SEED are those of the first twist (R72). -/
theorem output_of_lt (mode : Config.TwistMode) (v : Word) (k : Nat) (h : k < 312) :
    output mode v k = temper ((twist mode (seedWords v))[k]'h) := by
  simp only [output, Nat.div_eq_of_lt h, Nat.mod_eq_of_lt h, generation]

end Sys2Proof.Machine
end

section
/-! SUPPORT. The in-place pass with a scratch buffer (41_twist.md R63): the buffer gives the pre-twist value exactly where
the read wraps, so every round reads what the snapshot twist reads. -/

namespace Sys2Proof.Machine

theorem scratchOf_getElem (old : WordArray) (j : Nat) (h : j < Config.M) :
    (scratchOf old)[j]'h = old[j]'(Nat.lt_trans h (by decide)) :=
  Vector.getElem_ofFn h

/-- A read of round `i` that does not wrap is of the old array. -/
theorem wordAfter_scratchPass_of_lt (sc : Vector Word Config.M) (old : WordArray) (i k : Nat) (hi : i ≤ Config.N)
    (h : i + k < 312) : wordAfter (scratchPass sc i hi old) i k = wordAfter old i k := by
  rw [wordAfter_of_lt _ i k h, wordAfter_of_lt _ i k h,
    scratchPass_getElem_of_ge sc old (i + k) h i hi (Nat.le_add_right i k)]

theorem scratchSuccessor_eq_wordAfter (old : WordArray) (i : Nat) (hi : i < 312) :
    scratchSuccessor (scratchOf old) (scratchPass (scratchOf old) i hi.le old) i = wordAfter old i 1 := by
  by_cases h : i = 311
  · subst h
    rw [scratchSuccessor, if_pos rfl, scratchOf_getElem]
    exact (wordAfter_of_ge old 311 1 hi (by decide) le_rfl).symm
  · rw [scratchSuccessor, if_neg h, wordAfter_scratchPass_of_lt _ old i 1 hi.le (by omega)]

theorem scratchMiddle_eq_wordAfter (old : WordArray) (i : Nat) (hi : i < 312) :
    scratchMiddle (scratchOf old) (scratchPass (scratchOf old) i hi.le old) i = wordAfter old i Config.M := by
  by_cases h : 156 ≤ i
  · have hplace : i + Config.M - 312 = i - 156 := by simp only [Config.M]; omega
    rw [scratchMiddle, dif_pos ⟨h, hi⟩, scratchOf_getElem,
      wordAfter_of_ge old i Config.M hi (by decide) (Nat.add_le_add_right h 156)]
    simp only [hplace]
  · have hlt : i + Config.M < 312 := by simp only [Config.M]; omega
    rw [scratchMiddle, dif_neg fun hp => h hp.1, wordAfter_scratchPass_of_lt _ old i Config.M hi.le hlt]

theorem twistWithScratch_getElem (old : WordArray) (i : Nat) (h : i < 312) :
    (twistWithScratch old)[i]'h = twistWord (old[i]'h) (wordAfter old i 1) (wordAfter old i Config.M) := by
  simp only [twistWithScratch_eq_pass]
  rw [scratchPass_getElem_of_lt (scratchOf old) old i h 312 _ h, scratchPass_succ, Vector.getElem_set_self,
    scratchPass_getElem_of_ge (scratchOf old) old i h i h.le le_rfl, scratchSuccessor_eq_wordAfter old i h,
    scratchMiddle_eq_wordAfter old i h]

end Sys2Proof.Machine
end

section
/-! The obligations of 41_twist.md: the word-level twist (R58), the two modes (R59, R60, R62) and the scratch buffer
(R63). -/

namespace Sys2Proof.Proofs
open Sys2Proof.Machine

/-- Settles O17: the masks select bits 63..31 and 30..0, and bit 0 decides whether `mix` adds MATRIX_A. -/
theorem twistWordCombinesAndMixes : Obligations.TwistWordCombinesAndMixes :=
  ⟨combine_getLsbD, mix_of_even, mix_of_odd, fun _ _ _ => rfl⟩

/-- Settles O18: the snapshot twist word by word. -/
theorem snapshotTwistReadsTheOldArray : Obligations.SnapshotTwistReadsTheOldArray :=
  twistSnapshot_getElem

/-- Settles O19: round `i` reads the old array where a read does not wrap, and a replaced word where it does; one place
on wraps to word 0 at `i = 311` alone, 156 places on to word `i - 156`. -/
theorem sequentialTwistReadsReplacedWords : Obligations.SequentialTwistReadsReplacedWords := by
  intro ws i h
  rw [twistSequential_getElem ws i h]
  refine congrArg₂ (twistWord (ws[i]'h)) ?successor ?middle
  case successor =>
    split
    case isTrue h1 => exact wordAfter_twistPass_of_lt ws i 1 h.le h1
    case isFalse h1 =>
      have hlast : i = 311 := by omega
      subst hlast
      exact wordAfter_twistPass_of_ge ws 311 1 h (by decide) (by decide)
  case middle =>
    split
    case isTrue h2 => exact wordAfter_twistPass_of_lt ws i 156 h.le h2
    case isFalse h2 =>
      have hplace : i + 156 - 312 = i - 156 := by omega
      have hread := wordAfter_twistPass_of_ge ws i 156 h (by decide) (Nat.le_of_not_lt h2)
      simpa only [hplace] using hread

/-- Settles O20: below 156 no read wraps, so the first twist of the seeded array gives the same words in both modes. -/
theorem modesAgreeOnTheFirst156 : Obligations.ModesAgreeOnTheFirst156 := by
  refine ⟨twistSnapshot_getElem_eq_twistSequential, fun v k hk => ?_⟩
  have hN : k < 312 := by omega
  rw [output_of_lt .snapshot v k hN, output_of_lt .sequential v k hN]
  exact congrArg temper (twistSnapshot_getElem_eq_twistSequential (seedWords v) k hk)

/-- Settles O21: both arrays have the same word at every place. -/
theorem scratchBufferPassMeetsSnapshot : Obligations.ScratchBufferPassMeetsSnapshot :=
  fun old => Vector.ext fun i h => (twistWithScratch_getElem old i h).trans (twistSnapshot_getElem old i h).symm

end Sys2Proof.Proofs
end

section
/-! SUPPORT. The XOR-shift stages of the tempering (42_temper.md R68): bit by bit from the unshifted end, so that bits are
counted from bit 0 for a left shift and from bit 63 for a right shift. -/

namespace Sys2Proof.Machine
open Function

/-- A masked XOR-shift on a sequence of bits: from place `k` on, bit `i` takes in the bit `k` places before it, where the
mask allows. -/
def delayedXor (k : Nat) (mask b : Nat → Bool) (i : Nat) : Bool :=
  b i ^^ (!decide (i < k) && b (i - k) && mask i)

/-- What bit `i` takes in stands at an earlier place, so the result determines the bits in their order. -/
theorem delayedXor_injective (k : Nat) (mask : Nat → Bool) (hk : 1 ≤ k) : Injective (delayedXor k mask) := by
  intro b c h
  funext i
  induction i using Nat.strong_induction_on with
  | _ i ih =>
    have hi : delayedXor k mask b i = delayedXor k mask c i := congrFun h i
    by_cases hlt : i < k
    · simpa [delayedXor, hlt] using hi
    · have hearlier : b (i - k) = c (i - k) := ih (i - k) (by omega)
      simpa only [delayedXor, hearlier, Bool.xor_left_inj] using hi

/-- A left shift moves bits away from bit 0. -/
theorem getLsbD_xorShiftLeft (k : Nat) (m v : Word) :
    (v ^^^ ((v <<< k) &&& m)).getLsbD = delayedXor k m.getLsbD v.getLsbD := by
  funext i
  by_cases hi : i < 64
  · have hearlier : i - k < 64 := by omega
    simp [delayedXor, hi, hearlier]
  · simp [delayedXor, BitVec.getLsbD_of_ge m i (Nat.le_of_not_lt hi)]

/-- A right shift moves bits away from bit 63. -/
theorem getMsbD_xorShiftRight (k : Nat) (m v : Word) :
    (v ^^^ ((v >>> k) &&& m)).getMsbD = delayedXor k m.getMsbD v.getMsbD := by
  funext i
  by_cases hi : i < 64
  · simp [delayedXor, BitVec.getMsbD_ushiftRight, hi]
  · simp [delayedXor, BitVec.getMsbD_of_ge m i (Nat.le_of_not_lt hi)]

theorem xorShiftLeft_bijective (k : Nat) (m : Word) (hk : 1 ≤ k) :
    Bijective fun v : Word => v ^^^ ((v <<< k) &&& m) := by
  refine Injective.bijective_of_finite fun v w h => ?_
  have hbits : v.getLsbD = w.getLsbD := by
    apply delayedXor_injective k m.getLsbD hk
    rw [← getLsbD_xorShiftLeft, ← getLsbD_xorShiftLeft]
    exact congrArg BitVec.getLsbD h
  exact BitVec.eq_of_getLsbD_eq fun i _ => congrFun hbits i

theorem xorShiftRight_bijective (k : Nat) (m : Word) (hk : 1 ≤ k) :
    Bijective fun v : Word => v ^^^ ((v >>> k) &&& m) := by
  refine Injective.bijective_of_finite fun v w h => ?_
  have hbits : v.getMsbD = w.getMsbD := by
    apply delayedXor_injective k m.getMsbD hk
    rw [← getMsbD_xorShiftRight, ← getMsbD_xorShiftRight]
    exact congrArg BitVec.getMsbD h
  exact BitVec.eq_of_getMsbD_eq fun i _ => congrFun hbits i

theorem temperStage1_bijective : Bijective temperStage1 :=
  xorShiftRight_bijective temperShift1 temperMask1 (by decide)

theorem temperStage2_bijective : Bijective temperStage2 :=
  xorShiftLeft_bijective temperShift2 temperMask2 (by decide)

theorem temperStage3_bijective : Bijective temperStage3 :=
  xorShiftLeft_bijective temperShift3 temperMask3 (by decide)

/-- Stage 4 has no mask: it is the stage whose mask is all ones. -/
theorem temperStage4_bijective : Bijective temperStage4 := by
  have h := xorShiftRight_bijective temperShift4 (BitVec.allOnes 64) (by decide)
  simp only [BitVec.and_allOnes] at h
  exact h

theorem temper_bijective : Bijective temper :=
  temperStage4_bijective.comp (temperStage3_bijective.comp (temperStage2_bijective.comp temperStage1_bijective))

end Sys2Proof.Machine
end

section
/-! The obligations of 42_temper.md: the four stages (R65), and that each of them and their composition can be undone
(R68). -/

namespace Sys2Proof.Proofs
open Sys2Proof.Machine

/-- Settles O22: the model's stages, with its named constants, are R65's. -/
theorem temperIsItsFourStages : Obligations.TemperIsItsFourStages := by
  rintro y _ _ _ rfl rfl rfl
  rfl

/-- Settles O23: each stage's bits are determined from its unshifted end, and `temper` composes four stages. -/
theorem temperIsABijection : Obligations.TemperIsABijection :=
  ⟨fun k m hk _ => ⟨xorShiftRight_bijective k m hk, xorShiftLeft_bijective k m hk⟩, temper_bijective⟩

end Sys2Proof.Proofs
end

section
/-! SUPPORT. The sequence of outputs after a SEED (43_next.md R72, R73): where the engine stands after `k` draws, what the
next draw answers from there, and so what any number of draws answers, drawn directly or sent as NEXT words. -/

namespace Sys2Proof.Machine

/-- The elements after `SEED v` and `k` draws. The cursor of R73 is written without its case `k = 0`: each twist gives 312
words, and the cursor starts at 312 with none run. -/
structure State.FollowsSeed (s : State) (mode : Config.TwistMode) (v : Word) (k : Nat) : Prop where
  words : s.words = generation mode v (twistsAfter k)
  index : s.index.toNat + 312 * twistsAfter k = k + 312
  seeded : s.seeded = true

/-- The responses to the `n` draws that come after the first `k`. -/
def outputEvents (mode : Config.TwistMode) (v : Word) (k n : Nat) : List Event :=
  (List.range' k n).map fun j => .answered ⟨.ok, output mode v j⟩

@[simp] theorem outputEvents_zero (mode : Config.TwistMode) (v : Word) (k : Nat) : outputEvents mode v k 0 = [] := rfl

@[simp] theorem outputEvents_succ (mode : Config.TwistMode) (v : Word) (k n : Nat) :
    outputEvents mode v k (n + 1) = .answered ⟨.ok, output mode v k⟩ :: outputEvents mode v (k + 1) n := rfl

/-- From the first draw on, the responses are those of outputs #0..#n-1. -/
theorem outputEvents_from_zero (mode : Config.TwistMode) (v : Word) (n : Nat) :
    outputEvents mode v 0 n = (List.range n).map fun j => .answered ⟨.ok, output mode v j⟩ := by
  rw [outputEvents, List.range_eq_range']

theorem twistsAfter_succ (k : Nat) : twistsAfter (k + 1) = k / 312 + 1 := by
  simp only [twistsAfter]; omega

theorem twistsAfter_of_mod_eq_zero {k : Nat} (h : k % 312 = 0) : twistsAfter k = k / 312 := by
  simp only [twistsAfter]; omega

theorem twistsAfter_of_mod_ne_zero {k : Nat} (h : k % 312 ≠ 0) : twistsAfter k = k / 312 + 1 := by
  simp only [twistsAfter]; omega

namespace State.FollowsSeed

variable {s : State} {mode : Config.TwistMode} {v : Word} {k : Nat}

/-- R73's closed form of the cursor. -/
theorem index_toNat (h : s.FollowsSeed mode v k) :
    s.index.toNat = if k = 0 then 312 else k - 312 * (twistsAfter k - 1) := by
  have hindex := h.index
  have htwists : twistsAfter k = (k + 311) / 312 := rfl
  split <;> omega

theorem setInputs (h : s.FollowsSeed mode v k) (rest : List HostInput) : (s.setInputs rest).FollowsSeed mode v k :=
  ⟨h.words, h.index, h.seeded⟩

/-- The array is used up: the draw twists it to the next generation, of which it consumes word 0. -/
theorem nextIn_of_mod_eq_zero (h : s.FollowsSeed mode v k) (hk : k % 312 = 0) :
    nextIn mode s = .next (((s.setWords (generation mode v (k / 312 + 1))).setIndex 1#9).record
      (.answered ⟨.ok, output mode v k⟩)) := by
  obtain ⟨hwords, hindex, hseeded⟩ := h
  rw [twistsAfter_of_mod_eq_zero hk] at hwords hindex
  have hexhausted : s.index = 312#9 := BitVec.eq_of_toNat_eq (by rw [BitVec.toNat_ofNat]; omega)
  rw [nextIn_of_exhausted mode s hseeded hexhausted]
  simp only [hwords, output, hk, generation]

/-- Within a generation the cursor stands at `k mod 312`, and the draw consumes the word there. -/
theorem nextIn_of_mod_ne_zero (h : s.FollowsSeed mode v k) (hk : k % 312 ≠ 0) :
    nextIn mode s = .next ((s.setIndex (s.index + 1#9)).record (.answered ⟨.ok, output mode v k⟩)) := by
  obtain ⟨hwords, hindex, hseeded⟩ := h
  rw [twistsAfter_of_mod_ne_zero hk] at hwords hindex
  have hcursor : s.index.toNat = k % 312 := by omega
  have hlt : s.index.toNat < 312 := by omega
  rw [nextIn_of_lt mode s hseeded hlt]
  simp only [hwords, hcursor, output]

/-- Draw number `k` answers output #k and leaves the elements after `k + 1` draws; nothing else of the state moves. -/
theorem nextIn (h : s.FollowsSeed mode v k) : ∃ t : State, Machine.nextIn mode s = .next t ∧
    t.FollowsSeed mode v (k + 1) ∧ t.events = s.events ++ [.answered ⟨.ok, output mode v k⟩] ∧
    t.inputs = s.inputs ∧ t.freeDraw = s.freeDraw := by
  have hsucc := twistsAfter_succ k
  by_cases hk : k % 312 = 0
  · refine ⟨_, h.nextIn_of_mod_eq_zero hk, ⟨?words, ?index, h.seeded⟩, rfl, rfl, rfl⟩
    case words => simp only [record_words, setIndex_words, setWords_words, hsucc]
    case index =>
      simp only [record_index, setIndex_index, BitVec.toNat_ofNat]
      omega
  · refine ⟨_, h.nextIn_of_mod_ne_zero hk, ⟨?words, ?index, h.seeded⟩, rfl, rfl, rfl⟩
    case words =>
      simp only [record_words, setIndex_words, h.words, hsucc, twistsAfter_of_mod_ne_zero hk]
    case index =>
      have hindex := h.index
      rw [twistsAfter_of_mod_ne_zero hk] at hindex
      have hincr := toNat_index_succ (i := s.index) (by omega)
      simp only [record_index, setIndex_index]
      omega

theorem drawMany : ∀ (n : Nat) {k : Nat} {s : State}, s.FollowsSeed mode v k → ∃ u : State,
    Machine.drawMany mode n s = .next u ∧ u.FollowsSeed mode v (k + n) ∧
    u.events = s.events ++ outputEvents mode v k n ∧ u.inputs = s.inputs ∧ u.freeDraw = s.freeDraw
  | 0, _, s, h => ⟨s, rfl, h, by simp, rfl, rfl⟩
  | n + 1, k, s, h => by
    obtain ⟨t, ht, hfollows, hev, hin, hdraw⟩ := h.nextIn
    obtain ⟨u, hu, hfollows', hev', hin', hdraw'⟩ := hfollows.drawMany n
    refine ⟨u, (drawMany_succ_of_next ht n).trans hu, ?follows, ?events, hin'.trans hin, hdraw'.trans hdraw⟩
    case follows => rwa [Nat.add_right_comm k 1 n] at hfollows'
    case events => simp [hev', hev]

/-- A NEXT word among the host's moves is one draw, in this hardware's mode. -/
theorem step_of_next_word {operand : Word} {rest : List HostInput} (h : s.FollowsSeed twistMode v k)
    (hs : s.inputs = .request (0b10#2 ++ operand) :: rest) : ∃ t : State, step s = .next t ∧
    t.FollowsSeed twistMode v (k + 1) ∧ t.events = s.events ++ [.answered ⟨.ok, output twistMode v k⟩] ∧
    t.inputs = rest := by
  obtain ⟨t, ht, hfollows, hev, hin, -⟩ := (h.setInputs rest).nextIn
  refine ⟨t, ?_, hfollows, hev, hin⟩
  rw [step_of_request hs, decode_next_word, exec_next, ht]

theorem run_next_words : ∀ (operands : List Word) {k : Nat} {s : State} {rest : List HostInput},
    s.FollowsSeed twistMode v k →
    s.inputs = operands.map (fun o => HostInput.request (0b10#2 ++ o)) ++ rest →
    ∃ u : State, run operands.length s = .next u ∧ u.inputs = rest ∧
      u.events = s.events ++ outputEvents twistMode v k operands.length
  | [], _, s, _, _, hs => ⟨s, rfl, hs, by simp⟩
  | _ :: operands, k, s, rest, h, hs => by
    obtain ⟨t, ht, hfollows, hev, hin⟩ := h.step_of_next_word hs
    obtain ⟨u, hu, hrest, hev'⟩ := hfollows.run_next_words operands hin
    exact ⟨u, (run_succ_of_next ht _).trans hu, hrest, by simp [hev', hev]⟩

end State.FollowsSeed

/-- SEED leaves the elements with no draw made and no twist run: the cursor at 312. -/
theorem exec_seed_followsSeed (mode : Config.TwistMode) (v : Word) (s : State) : ∃ t : State,
    exec (.seed v) s = .next t ∧ t.FollowsSeed mode v 0 ∧ t.events = s.events ++ [.answered ⟨.ok, 0#64⟩] ∧
    t.inputs = s.inputs :=
  ⟨_, exec_seed v s, ⟨rfl, rfl, rfl⟩, rfl, rfl⟩

theorem step_of_seed_word {v : Word} {s : State} {rest : List HostInput}
    (hs : s.inputs = .request (0b01#2 ++ v) :: rest) : ∃ t : State, step s = .next t ∧
    t.FollowsSeed twistMode v 0 ∧ t.events = s.events ++ [.answered ⟨.ok, 0#64⟩] ∧ t.inputs = rest := by
  obtain ⟨t, ht, hfollows, hev, hin⟩ := exec_seed_followsSeed twistMode v (s.setInputs rest)
  refine ⟨t, ?_, hfollows, hev, hin⟩
  rw [step_of_request hs, decode_seed_word, ht]

end Sys2Proof.Machine
end

section
/-! The obligations of 43_next.md: NEXT (R71), the sequence of outputs (R72, R73), NOP (R75) and the reserved request
(R76). -/

namespace Sys2Proof.Proofs
open Sys2Proof.Machine

/-- Settles O24: SEED leaves the elements with no draw made, and each draw answers the next output from there. -/
theorem drawsAfterSeedFollowTheGenerations : Obligations.DrawsAfterSeedFollowTheGenerations := by
  intro mode v k s
  obtain ⟨t, ht, hseed, -, -⟩ := exec_seed_followsSeed mode v s
  obtain ⟨u, hu, hfollows, hev, hin, hdraw⟩ := hseed.drawMany k
  rw [Nat.zero_add] at hfollows
  rw [outputEvents_from_zero] at hev
  exact ⟨t, u, ht, hu, hev, hfollows.words, hfollows.index_toNat, hfollows.seeded, hin, hdraw⟩

/-- Settles O25: the first step is the SEED, and from there each NEXT word is a draw of the sequence. -/
theorem seededRunReturnsTheOutputs : Obligations.SeededRunReturnsTheOutputs := by
  intro v operands rest s hs
  obtain ⟨t, ht, hseed, hevt, hin⟩ := step_of_seed_word hs
  obtain ⟨u, hu, hrest, hev⟩ := hseed.run_next_words operands hin
  refine ⟨u, (run_succ_of_next ht _).trans hu, hrest, ?events⟩
  rw [hev, hevt, outputEvents_from_zero, List.append_assoc]
  rfl

/-- Settles O12: the draw's lemma for each case of R71, taken at this hardware's mode. -/
theorem nextReturnsTheNextTemperedWord : Obligations.NextReturnsTheNextTemperedWord := by
  intro operand s
  refine ⟨decode_next_word operand, fun hs => ?unseeded, fun hs hi => ?exhausted, fun hs hi => ?plain⟩
  case unseeded => exact nextIn_of_unseeded twistMode s hs
  case exhausted => exact nextIn_of_exhausted twistMode s hs hi
  case plain => exact ⟨s.index + 1#9, toNat_index_succ hi, nextIn_of_lt twistMode s hs hi⟩

/-- Settles O8: op 11 raises the error by definition; the responses of NOP and SEED are OK, and a draw's is OK or
ERR_UNSEEDED. -/
theorem reservedRaisesIllegalOpAlone : Obligations.ReservedRaisesIllegalOpAlone := by
  refine ⟨rfl, fun operand s => ⟨decode_reserved_word operand, exec_reserved operand s⟩, fun i s t r h hev hr => ?alone⟩
  cases i with
  | reserved operand => exact ⟨operand, rfl⟩
  | nop operand => cases h; cases answered_inj hev; cases hr
  | seed v => cases h; cases answered_inj hev; cases hr
  | next operand =>
    rcases nextIn_response h hev with rfl | ⟨hok, -⟩
    · cases hr
    · cases hok.symm.trans hr

/-- Settles O7: the word of op 00, and NOP's one effect, the response. -/
theorem nopRespondsOkAndChangesNothing : Obligations.NopRespondsOkAndChangesNothing :=
  fun operand s => ⟨decode_nop_word operand, exec_nop operand s⟩

end Sys2Proof.Proofs
end

section
/-! SUPPORT. The two error responses and where each comes from (60_exceptions.md R79 to R82). -/

namespace Sys2Proof.Machine

/-- The inversion of an error response: it is the literal response of NEXT in Unseeded or of the reserved request, and
the state it leaves is the old one with that response recorded. -/
theorem exec_error_cases {i : Instr} {s t : State} {r : Response} (h : exec i s = .next t)
    (hev : t.events = s.events ++ [.answered r]) (herr : r.status ≠ .ok) :
    t = s.record (.answered r) ∧
      ((r = ⟨.errUnseeded, 0#64⟩ ∧ s.seeded = false ∧ ∃ operand, i = .next operand) ∨
        (r = ⟨.errIllegalOp, 0#64⟩ ∧ ∃ operand, i = .reserved operand)) := by
  cases i with
  | nop operand => cases h; cases answered_inj hev; exact absurd rfl herr
  | seed v => cases h; cases answered_inj hev; exact absurd rfl herr
  | reserved operand => cases h; cases answered_inj hev; exact ⟨rfl, .inr ⟨rfl, operand, rfl⟩⟩
  | next operand =>
    rw [exec_next] at h
    rcases nextIn_cases twistMode s with ⟨hs, he⟩ | ⟨-, -, he⟩ | ⟨-, _, he⟩ | ⟨-, -, he⟩ <;>
      rw [he] at h <;> cases h <;> cases answered_inj hev
    · exact ⟨rfl, .inl ⟨rfl, hs, operand, rfl⟩⟩
    · exact absurd rfl herr
    · exact absurd rfl herr

end Sys2Proof.Machine
end

section
/-! SUPPORT. A platform's step by the step of its engine, and its engines after reset (60_exceptions.md R91). -/

namespace Sys2Proof.Machine

/-- The inversion of `stepEngine`: the engine made its own step, and its new state is all that was written. -/
theorem stepEngine_eq_next {p q : Platform} {k : Fin p.engines.length} (h : p.stepEngine k = .next q) :
    ∃ t : State, step p.engines[k] = .next t ∧ q.engines = p.engines.set k t := by
  unfold Platform.stepEngine at h
  split at h
  next t ht => cases h; exact ⟨t, ht, rfl⟩
  next => cases h
  next => cases h

@[simp] theorem platformReset_length (c : Config.Integration) :
    (Platform.reset c).engines.length = c.instanceCount := by
  simp [Platform.reset]

theorem eq_powerOn_of_mem_platformReset {c : Config.Integration} {e : State} (h : e ∈ (Platform.reset c).engines) :
    ∃ d : FreeDraw, e = State.powerOn d := by
  obtain ⟨k, -, rfl⟩ := List.mem_map.mp h
  exact ⟨_, rfl⟩

end Sys2Proof.Machine
end

section
/-! The obligations of 60_exceptions.md: what an error response changes (R80) and where ERR_UNSEEDED comes from (R81),
independent engines (R91), and the idle state (R93). -/

namespace Sys2Proof.Proofs
open Sys2Proof.Machine

/-- Settles O14: a draw in Unseeded is the error, and an error response with that status can only be a draw's. -/
theorem unseededErrorIsExactlyNextBeforeSeed : Obligations.UnseededErrorIsExactlyNextBeforeSeed := by
  refine ⟨rfl, fun operand s hs => nextIn_of_unseeded twistMode s hs, fun i s t r h hev hr => ?alone⟩
  have herr : r.status ≠ .ok := by simp [hr]
  obtain ⟨-, ⟨-, hcause⟩ | ⟨rfl, -⟩⟩ := exec_error_cases h hev herr
  · exact hcause
  · cases hr

/-- Settles O30: both error responses have result 0 and only record themselves. -/
theorem errorsChangeNoState : Obligations.ErrorsChangeNoState := by
  intro i s t r h hev herr
  obtain ⟨ht, ⟨rfl, -⟩ | ⟨rfl, -⟩⟩ := exec_error_cases h hev herr
  · exact ⟨rfl, ht⟩
  · exact ⟨rfl, ht⟩

/-- Settles O42: the step replaces one entry of the list of engines, and each engine starts at its power-on. -/
theorem enginesShareNothing : Obligations.EnginesShareNothing := by
  refine ⟨fun p q k h => ?step, fun c => ⟨platformReset_length c, fun e he => ?reset⟩⟩
  case step =>
    obtain ⟨t, ht, hq⟩ := stepEngine_eq_next h
    rw [hq]
    exact ⟨List.length_set, ⟨t, ht, List.getElem?_set_self k.isLt⟩, fun j hj => List.getElem?_set_ne hj.symm⟩
  case reset =>
    obtain ⟨d, rfl⟩ := eq_powerOn_of_mem_platformReset he
    exact ⟨powerOn_seeded d, powerOn_index d⟩

/-- Settles O29: the case of a step with no move of the host. -/
theorem idleStatePersists : Obligations.IdleStatePersists :=
  fun _ h => step_of_nil h

end Sys2Proof.Proofs
end

section
/-! SUPPORT. The observation of a run (70_reset_and_hazards.md R105): responses extend it, a reset starts it anew. -/

namespace Sys2Proof.Machine

theorem observeFrom_append : ∀ (es es' : List Event) (acc : List Response),
    observeFrom acc (es ++ es') = observeFrom (observeFrom acc es) es'
  | [], _, _ => rfl
  | .answered r :: es, es', acc => observeFrom_append es es' (acc ++ [r])
  | .reset :: es, es', _ => observeFrom_append es es' []

theorem observeFrom_map_answered : ∀ (responses acc : List Response),
    observeFrom acc (responses.map Event.answered) = acc ++ responses
  | [], acc => (List.append_nil acc).symm
  | r :: responses, acc =>
    (observeFrom_map_answered responses (acc ++ [r])).trans (List.append_cons acc r responses).symm

theorem observation_of_answered {s t : State} {responses : List Response}
    (h : t.events = s.events ++ responses.map Event.answered) : t.observation = s.observation ++ responses := by
  rw [State.observation, h, observeFrom_append, observeFrom_map_answered, State.observation]

@[simp] theorem applyReset_observation (s : State) : (applyReset s).observation = [] := by
  rw [State.observation, applyReset_events, observeFrom_append]
  rfl

end Sys2Proof.Machine
end

section
/-! SUPPORT. Runs from a state that meets the cursor invariant (70_reset_and_hazards.md R104, R105): the step's lemma,
carried over the number of steps and over a list of request words. -/

namespace Sys2Proof.Machine

theorem run_completes_of_inv : ∀ (k : Nat) {s : State}, s.Inv → ∃ t : State, run k s = .next t ∧ t.Inv
  | 0, s, h => ⟨s, run_zero s, h⟩
  | k + 1, _, h => by
    obtain ⟨u, hu, huinv⟩ := step_completes_of_inv h
    rw [run_succ_of_next hu]
    exact run_completes_of_inv k huinv

theorem step_answers_of_inv {s : State} {w : ReqWord} {rest : List HostInput} (h : s.Inv)
    (hs : s.inputs = .request w :: rest) : ∃ (t : State) (r : Response), step s = .next t ∧ t.Inv ∧
    t.inputs = rest ∧ t.events = s.events ++ [.answered r] := by
  obtain ⟨t, ht, hinv⟩ := exec_completes_of_inv (decode w) (s := s.setInputs rest) h
  obtain ⟨hin, -, r, hev, -⟩ := exec_answers_once ht
  exact ⟨t, r, (step_of_request hs).trans ht, hinv, hin, hev⟩

theorem run_answers_of_inv : ∀ (ws : List ReqWord) {rest : List HostInput} {s : State}, s.Inv →
    s.inputs = ws.map HostInput.request ++ rest →
    ∃ (t : State) (responses : List Response), run ws.length s = .next t ∧ t.inputs = rest ∧
      responses.length = ws.length ∧ t.events = s.events ++ responses.map Event.answered
  | [], _, s, _, hs => ⟨s, [], run_zero s, hs, rfl, by simp⟩
  | _ :: ws, _, _, h, hs => by
    obtain ⟨u, r, hu, huinv, hin, hev⟩ := step_answers_of_inv h hs
    obtain ⟨t, responses, ht, hrest, hlen, hev'⟩ := run_answers_of_inv ws huinv hin
    exact ⟨t, r :: responses, (run_succ_of_next hu _).trans ht, hrest, by simp [hlen], by simp [hev', hev]⟩

end Sys2Proof.Machine
end

section
/-! The obligations of 70_reset_and_hazards.md: the reset input (R94, R95), progress of every run (R104), and the
observation of a run of requests (R105). -/

namespace Sys2Proof.Proofs
open Sys2Proof.Machine

/-- Settles O40: a step from the invariant completes and meets it again, so by induction any number of steps does. -/
theorem noRunFromTheInvariantStops : Obligations.NoRunFromTheInvariantStops :=
  fun k _ h => run_completes_of_inv k h

/-- Settles O41: each request word adds one response to the history, and responses extend the observation. -/
theorem runIsObservedAsOneResponsePerRequest : Obligations.RunIsObservedAsOneResponsePerRequest := by
  intro ws rest s h hs
  obtain ⟨t, responses, ht, hrest, hlen, hev⟩ := run_answers_of_inv ws h hs
  exact ⟨t, responses, ht, hrest, hlen, hev, observation_of_answered hev⟩

/-- Settles O34: the step is `applyReset` with the move consumed, and the mark it adds empties the observation. -/
theorem resetInputPutsEngineInResetState : Obligations.ResetInputPutsEngineInResetState :=
  fun s rest hs => ⟨applyReset (s.setInputs rest), step_of_reset hs, applyReset_seeded _, applyReset_index _,
    applyReset_inputs _, applyReset_events _, applyReset_observation _⟩

/-- Settles O35: either move of the host is consumed by one and the same `applyReset`. -/
theorem resetAbandonsTheOutstandingRequest : Obligations.ResetAbandonsTheOutstandingRequest := by
  intro s w rest hs
  have hstep := step_of_resetDuring hs
  refine ⟨?same, applyReset (s.setInputs rest), hstep, applyReset_events _, applyReset_observation _⟩
  case same =>
    rw [hstep, step_of_reset (s := { s with inputs := .reset :: rest }) rfl]
    rfl

end Sys2Proof.Proofs
end
